-- ==== Sys2Proof/Word.lean ====
section
/-! DEFINITION. The widths of the spec: 64-bit registers (R10, R20), the 32-bit External view (R10, R52), the 32-bit
instruction word (R74) and one-bit register fields (R37). -/

namespace Sys2Proof

/-- A 64-bit register value: `TRCITEEDCR` and `X[t, 64]` (R10, R12: bit 0 is the least significant). -/
abbrev Word := BitVec 64

/-- A 32-bit word: the External view `TRCITEEDCR[31:0]` (R52) and one half of the register (R43). -/
abbrev HalfWord := BitVec 32

/-- One instruction word. PRESUMED (R74 is general knowledge G2): every instruction is one 32-bit word (log 16). -/
abbrev InsnWord := BitVec 32

/-- A one-bit field of a register, compared with `'1'` or `'0'` (R12, R37). -/
abbrev Bit := BitVec 1

end Sys2Proof
end

