-- ==== Sys2Proof/Syntax.lean ====
section
/-! DEFINITION. The instructions of `spec/opcode_table.json` and the decoded form of a System register move (R71 to R74). -/

namespace Sys2Proof

/-- The direction of an accessor (R71, R73): a read is `MRS`, a write is `MSR`. -/
inductive Dir where
  | read
  | write
  deriving DecidableEq, Repr

/-- The number `t` of a general-purpose register. PRESUMED (G4 in R34): 5 bits, 31 is the zero register (log 5). -/
abbrev RegNum := BitVec 5

/-- The decoded form of any System register move (R73), with the field widths of R51 and R70. -/
structure SysMove where
  /-- Read (`L = 1`) or write (`L = 0`). -/
  dir : Dir
  /-- The five fields that name a System register. -/
  op0 : BitVec 2
  op1 : BitVec 3
  crn : BitVec 4
  crm : BitVec 4
  op2 : BitVec 3
  /-- The general-purpose register transferred. -/
  t   : RegNum
  deriving DecidableEq, Repr

/-- The instruction set in scope (R4): one constructor per row of the opcode table (R79). -/
inductive Instr where
  /-- `MRS <Xt>, TRCITEEDCR`, the read accessor (R96). -/
  | mrsTrciteedcr (t : RegNum)
  /-- `MSR TRCITEEDCR, <Xt>`, the write accessor (R97). -/
  | msrTrciteedcr (t : RegNum)
  deriving DecidableEq, Repr

/-- The accessor as a System register move: the five fields of R70 with its direction and its `t`. -/
def Instr.toMove : Instr → SysMove
  | .mrsTrciteedcr t => ⟨.read, 0b10#2, 0b001#3, 0b0000#4, 0b0010#4, 0b001#3, t⟩
  | .msrTrciteedcr t => ⟨.write, 0b10#2, 0b001#3, 0b0000#4, 0b0010#4, 0b001#3, t⟩

end Sys2Proof
end

