-- ==== Sys2Proof/WellFormed.lean ====
section
/-! DEFINITION. Which decoded System register moves are accessors of this spec (R73). Every `t` is legal (R77), so an
`Instr` has no check of its own beyond its move's. -/

namespace Sys2Proof

/-- "An instruction is an accessor of this spec exactly when `(op0, op1, CRn, CRm, op2) = (2, 1, 0, 2, 1)`" (R73). -/
def SysMove.isAccessor (m : SysMove) : Bool :=
  m.op0 == 2#2 && m.op1 == 1#3 && m.crn == 0#4 && m.crm == 2#4 && m.op2 == 1#3

/-- An instruction is well formed when its move names this register. -/
def Instr.wellFormed (i : Instr) : Bool := i.toMove.isAccessor

end Sys2Proof
end

