-- ==== Sys2Proof/Decode.lean ====
section
/-! DEFINITION. Decoding an instruction word (R73 to R75) and encoding an instruction. The word layout is PRESUMED: the
spec marks it as general knowledge G2 (log 16); the five field values are the source's (R70). -/

namespace Sys2Proof

/-- What the decoder makes of a word: an accessor, or a rejection by name. -/
inductive Decoded where
  /-- An accessor of this spec. -/
  | ok (i : Instr)
  /-- A System register move that names another register: "system register not in this spec" (R73, U10). -/
  | otherRegister (op0 : BitVec 2) (op1 : BitVec 3) (crn crm : BitVec 4) (op2 : BitVec 3)
  /-- Not a System register move in the layout of R74. -/
  | notSysregMove
  deriving DecidableEq, Repr

/-- The instruction of an accepted word. -/
def Decoded.instr? : Decoded → Option Instr
  | .ok i => some i
  | .otherRegister _ _ _ _ _ => none
  | .notSysregMove => none

/-- The fields of a System register move, cut out of the word as R74 lays them out; `op0` is bit 20 (always 1) followed
by bit 19 (`o0`). -/
def splitMove (w : InsnWord) : Option SysMove :=
  if w.extractLsb' 22 10 = 0b1101010100#10 ∧ w.extractLsb' 20 1 = 1#1 then
    some { dir := if w.extractLsb' 21 1 = 1#1 then .read else .write
           op0 := w.extractLsb' 19 2
           op1 := w.extractLsb' 16 3
           crn := w.extractLsb' 12 4
           crm := w.extractLsb' 8 4
           op2 := w.extractLsb' 5 3
           t   := w.extractLsb' 0 5 }
  else none

/-- The accessor a move stands for; `none` when the five fields name another register (R73). -/
def SysMove.toInstr? (m : SysMove) : Option Instr :=
  if m.isAccessor then
    match m.dir with
    | .read => some (.mrsTrciteedcr m.t)
    | .write => some (.msrTrciteedcr m.t)
  else none

/-- Decode one instruction word, total on all words (R73). -/
def decode (w : InsnWord) : Decoded :=
  match splitMove w with
  | none => .notSysregMove
  | some m =>
    match m.toInstr? with
    | some i => .ok i
    | none => .otherRegister m.op0 m.op1 m.crn m.crm m.op2

/-- The `L` bit of the layout of R74: 1 is a read, 0 is a write. -/
def Dir.bit : Dir → BitVec 1
  | .read => 1#1
  | .write => 0#1

/-- The word of a System register move, its fields placed as R74 lays them out from bit 31 down. Bit 20 of the layout
is the fixed 1 that R74 makes the upper bit of `op0`, so only `op0 = 0b1x` has a word. -/
def SysMove.encode (m : SysMove) : InsnWord :=
  0b1101010100#10 ++ m.dir.bit ++ m.op0 ++ m.op1 ++ m.crn ++ m.crm ++ m.op2 ++ m.t

/-- The word of an accessor (R75). -/
def encode (i : Instr) : InsnWord := i.toMove.encode

/-- The decoder's reading of an instruction given as the number of its bits, for the opcode table's rows: one word of
32 bits (R74), bits above `nbits` zero. -/
def decodeTableWord (nbits w : Nat) : Option Instr :=
  (decode (BitVec.ofNat 32 (w % 2 ^ nbits))).instr?

end Sys2Proof
end

