-- ==== Sys2Proof/Machine/Types.lean ====
section
/-! DEFINITION. The plain types of the machine: Exception levels, Security states, the inputs borrowed from the enclosing
machine (R36 to R39), the register with its settled flags (R20, R43), how an accessor's step ends (R120), and the events
by which the agents act (R18). -/

namespace Sys2Proof.Machine

/-- The four Exception levels, a four-valued enumeration (R130, D25). -/
inductive EL where
  | el0
  | el1
  | el2
  | el3
  deriving DecidableEq, Repr

/-- The Security states the source names (R131). -/
inductive SecurityState where
  | realm
  | secure
  | nonSecure
  deriving DecidableEq, Repr

/-- The general-purpose registers X0 to X30 (R34; PRESUMED G4, log 5). -/
abbrev XFile := Vector Word 31

/-- The dynamic inputs: what the enclosing machine holds at the moment of a step (R11). No relation between them is
assumed (R38), and no rule of the spec writes them. -/
structure Env where
  /-- `PSTATE.EL` (R36). -/
  pstateEL : EL
  /-- `CPTR_EL3.TTA`. -/
  cptrEL3TTA : Bit
  /-- `CPACR_EL1.TTA`. -/
  cpacrEL1TTA : Bit
  /-- `CPTR_EL2.TTA`. -/
  cptrEL2TTA : Bit
  /-- `SCR_EL3.FGTEn`. -/
  scrEL3FGTEn : Bit
  /-- `HDFGRTR_EL2.TRC`, consulted by reads. -/
  hdfgrtrEL2TRC : Bit
  /-- `HDFGWTR_EL2.TRC`, consulted by writes. -/
  hdfgwtrEL2TRC : Bit
  /-- `OSLSR_EL1.OSLK`. -/
  oslsrEL1OSLK : Bit
  /-- `EDSCR2.TTA`. -/
  edscr2TTA : Bit
  /-- `TRCCONFIGR.ITO`. -/
  trcconfigrITO : Bit
  /-- `EL3SDDUndefPriority()`. -/
  el3SDDUndefPriority : Bool
  /-- `EL3SDDUndef()`. -/
  el3SDDUndef : Bool
  /-- `EL2Enabled()`. -/
  el2Enabled : Bool
  /-- `ELUsingAArch32(EL1)`. -/
  el1UsingAArch32 : Bool
  /-- `HaltingAllowed()`. -/
  haltingAllowed : Bool
  /-- `SelfHostedTraceEnabled()`. -/
  selfHostedTraceEnabled : Bool
  /-- The trace unit is in the Idle state (R39). -/
  traceUnitIdle : Bool
  deriving DecidableEq, Repr

/-- The state the spec owns (R42): the stored value and, for each half, whether it has been written since the last
reset that affected the register (R43). -/
structure Trc where
  /-- The 64-bit stored value (R20). -/
  value : Word
  /-- Bits [31:0] have been written since the last reset. -/
  settledLo : Bool
  /-- Bits [63:32] have been written since the last reset. -/
  settledHi : Bool
  deriving DecidableEq, Repr

/-- The argument of `Halt` (R123). -/
inductive HaltReason where
  | softwareAccess
  deriving DecidableEq, Repr

/-- How the PE's last step ended (R120), less the model's fault. After anything but `completed` the enclosing machine's
hook is pending and the PE takes no further step until it has run (R121 to R123). -/
inductive PEOutcome where
  /-- The access was performed, or the hook of an earlier outcome has run: the PE goes on. -/
  | completed
  /-- `Undefined`, with the hook `take_undefined` (R121). -/
  | undefined
  /-- `SystemAccessTrap(el, code)` with what the hook `take_system_access_trap` is given (R122). -/
  | systemAccessTrap (el : EL) (code : Nat) (dir : Dir) (t : RegNum)
  /-- `Halt(reason)`, with the hook `resume_from_halt` (R123). -/
  | halt (reason : HaltReason)
  deriving DecidableEq, Repr

/-- The shape of an external access: its offset and its width in bits (R57, R60). -/
structure ExtAccess where
  offset : Nat
  bits   : Nat
  deriving DecidableEq, Repr

/-- One step of one agent in the total order of R62 (R18; log 1). -/
inductive Event where
  /-- The PE executes an instruction word the enclosing machine presents (R90). -/
  | fetch (w : InsnWord)
  /-- An access to the register is attempted from AArch32 state (D23). -/
  | aarch32Access
  /-- The external debugger reads (R53). -/
  | extRead (a : ExtAccess)
  /-- The external debugger writes `w` (R54). -/
  | extWrite (a : ExtAccess) (w : HalfWord)
  /-- The trace unit decides whether Instrumentation trace is permitted at a place (R33). -/
  | traceRead (ss : SecurityState) (el : EL)
  /-- `env.TraceSync`: earlier writes become visible to the trace unit (R66). -/
  | traceSync
  /-- `reset_affects_TRCITEEDCR` (R151). -/
  | reset
  /-- The enclosing machine changes its inputs or its registers (R11, R37). -/
  | enclosing (env : Env) (x : XFile)
  /-- The hook `take_undefined` has run and left these inputs and registers (R121). -/
  | takeUndefined (env : Env) (x : XFile)
  /-- The hook `take_system_access_trap` has run and left these inputs and registers (R122). -/
  | takeSystemAccessTrap (env : Env) (x : XFile)
  /-- The hook `resume_from_halt` has run and left these inputs and registers (R123). -/
  | resumeFromHalt (env : Env) (x : XFile)
  deriving DecidableEq, Repr

end Sys2Proof.Machine
end

