-- ==== Sys2Proof/Config.lean ====
section
/-! DEFINITION. What an implementation fixes (R9), as plain data, and the free values: opaque constants, of which no
proof can know a value. -/

namespace Sys2Proof

/-- The configuration parameters of R9 that are plain data. The source fixes none of them (log 2). -/
structure Config where
  featETE : Bool
  /-- "System register access to the trace unit registers is implemented". -/
  sysregTrace : Bool
  featITE : Bool
  featRME : Bool
  featFGT : Bool
  featTRBEEXT : Bool
  /-- `HaveEL(EL3)`. -/
  haveEL3 : Bool
  /-- EL2 is implemented in some Security state (R28). -/
  haveEL2Any : Bool
  /-- The bits RL, S, NS, E3 are fields, not RES0 (R29). -/
  implRL : Bool
  implS : Bool
  implNS : Bool
  implE3 : Bool
  /-- `RES0_STORAGE_MASK`: the RES0 positions that keep a written bit (R30). -/
  res0StorageMask : Word
  /-- `EXT_OFFSET`: where the External register lies (R60). -/
  extOffset : Nat
  /-- `absent_before_traps`: the presence check stands before the access check (R91, D4). -/
  absentBeforeTraps : Bool
  deriving DecidableEq, Repr

/-- Free value: `d_hi` of R43, the draw for bits [63:32] at a reading step, by number of resets and of reading steps
(log 7). -/
opaque Config.drawHi : Nat → Nat → HalfWord

/-- Free value: `d_lo` of R43, the draw for bits [31:0] at a reading step (log 7). -/
opaque Config.drawLo : Nat → Nat → HalfWord

/-- Free value: which of the contents still visible a reading step of the trace unit sees (R66, log 14). -/
opaque Config.pickVisible : Nat → Nat

/-- Free value: what an external read returns that is not admitted (R55, log 13). -/
opaque Config.notAdmittedData : Nat → HalfWord

/-- `cfg.ext_access_ok(state, env, direction)`, the open predicate of R55, over the state the spec owns (log 13). -/
opaque Config.extAccessOk : Machine.Trc → Machine.Env → Dir → Bool

/-- `cfg.ito_gate(env.TRCCONFIGR_ITO, ss, el, ...)`, the open function of R33; its last argument, the number of the
reading step, stands for whatever else it depends on (log 15). -/
opaque Config.itoGate : Bit → Machine.SecurityState → Machine.EL → Nat → Bool

/-- `cfg.self_hosted_permitted(ss, el, ...)`, the open function of R31 and R33; its last argument, the number of the
reading step, stands for whatever else it depends on (log 15). -/
opaque Config.selfHostedPermitted : Machine.SecurityState → Machine.EL → Nat → Bool

end Sys2Proof
end

