-- ==== Sys2Proof/Machine/State.lean ====
section
/-! DEFINITION. The machine's state as plain data, its state after reset, and the named reasons a step can stop. -/

namespace Sys2Proof.Machine

/-- Why the machine stops with a fault. -/
inductive Fault where
  /-- `Fault_CUWriteNotIdle` (R124): a write that passed the access check (`MSR`, R99) or admission (external write, R54)
  while the trace unit is not Idle, which the source calls CONSTRAINED UNPREDICTABLE. Raised by `execMsrTrciteedcr` and
  `extWrite`. Safe: the hardware does something, the model says nothing of it. -/
  | cuWriteNotIdle
  deriving DecidableEq, Repr

/-- Why a step is refused. -/
inductive Refusal where
  /-- An instruction of the opcode table without a meaning in this model. Raised by no arm of `exec`. Safe. -/
  | notModelled (mnemonic : String)
  /-- "system register not in this spec" (R73, U10): the word is a System register move that names another register.
  Raised by `fetch`. Safe. -/
  | sysregNotInSpec (op0 : BitVec 2) (op1 : BitVec 3) (crn crm : BitVec 4) (op2 : BitVec 3)
  /-- The word is not a System register move (R4: no other instruction is described). Raised by `fetch`. Safe. -/
  | notSysregMove (w : InsnWord)
  /-- The PE's last outcome is still with its hook, so the PE has no step (R121 to R123). Raised by `fetch`. Safe. -/
  | peNotRunning (pending : PEOutcome)
  /-- An access from AArch32 state (D23). Raised by `aarch32Access`. Safe. -/
  | aarch32Access
  /-- An external access that is not to this register's whole 32-bit word (R57, U8). Raised by `extRead` and
  `extWrite`. Safe. -/
  | externalShape (a : ExtAccess)
  /-- A hook is said to have run, but no outcome of its kind is pending. Raised by `takeUndefined`,
  `takeSystemAccessTrap` and `resumeFromHalt`. Safe. -/
  | hookNotPending
  deriving DecidableEq, Repr

/-- The state of the machine: what the spec owns, what it borrows from the enclosing machine, the configuration, and the
model's own record of the agents' steps. -/
structure State where
  /-- The configuration (R9): fixed, no step writes it (log 2). -/
  cfg : Config
  /-- The dynamic inputs (R37, R38), written only by steps of the enclosing machine. -/
  env : Env
  /-- The general-purpose registers X0 to X30 (R34). -/
  x : XFile
  /-- `TRCITEEDCR` and its settled flags (R20, R43). -/
  trc : Trc
  /-- The contents of the register before each write since the last `TraceSync`, newest first: the trace unit may still
  see any of them (R66). -/
  visible : List Trc
  /-- How the PE's last step ended (R120). -/
  pe : PEOutcome
  /-- The model's own: what the last external read returned (R53), `none` before the first. -/
  extData : Option HalfWord
  /-- The model's own: the trace unit's last decision (R33), `none` before the first. -/
  traceDecision : Option Bool
  /-- The model's own: the number of resets so far, an argument of the draws (R43). -/
  resets : Nat
  /-- The model's own: the number of reading steps so far, an argument of the free values (R43). -/
  draws : Nat
  /-- The model's own: the agents' steps to come, in the total order of R62 (log 1). -/
  agenda : List Event
  deriving DecidableEq, Repr

/-- The register after a reset that affects it (R151): both halves unsettled, the stored value 0. -/
def Trc.reset : Trc := { value := 0#64, settledLo := false, settledHi := false }

/-- The configuration `full` with every feature, as the spec's vectors take it (spec/95 2.2, 2.4). DESIGN CHOICE: R9
fixes none of it but the defaults of `res0StorageMask` and `absentBeforeTraps` (log 2). -/
def configReset : Config where
  featETE := true
  sysregTrace := true
  featITE := true
  featRME := true
  featFGT := true
  featTRBEEXT := true
  haveEL3 := true
  haveEL2Any := true
  implRL := true
  implS := true
  implNS := true
  implE3 := true
  res0StorageMask := 0#64
  extOffset := 0
  absentBeforeTraps := true

/-- The inputs after reset: the baseline B of the spec's vectors (spec/95 2.4) at EL3. DESIGN CHOICE, and PRESUMED for
EL3: R41 leaves every input unconstrained (log 3). -/
def Env.reset : Env where
  pstateEL := .el3
  cptrEL3TTA := 0#1
  cpacrEL1TTA := 0#1
  cptrEL2TTA := 0#1
  scrEL3FGTEn := 0#1
  hdfgrtrEL2TRC := 0#1
  hdfgwtrEL2TRC := 0#1
  oslsrEL1OSLK := 1#1
  edscr2TTA := 0#1
  trcconfigrITO := 0#1
  el3SDDUndefPriority := false
  el3SDDUndef := false
  el2Enabled := true
  el1UsingAArch32 := false
  haltingAllowed := false
  selfHostedTraceEnabled := false
  traceUnitIdle := true

/-- The machine after reset (R151: "both halves unsettled, no fault recorded"); nothing is scheduled (log 17). -/
def State.reset : State where
  cfg := configReset
  env := Env.reset
  x := Vector.replicate 31 0#64
  trc := Trc.reset
  visible := []
  pe := .completed
  extData := none
  traceDecision := none
  resets := 0
  draws := 0
  agenda := []

end Sys2Proof.Machine
end

