-- ==== Sys2Proof/Machine/Flags.lean ====
section
/-! DEFINITION. The register's one-bit control flags and masks (R21 to R30), and the participating bits of the permission
function (R32). The spec has no condition flags (R36): no accessor computes one. -/

namespace Sys2Proof.Machine

/-- Field RL, bit [6] (R21, R23). Positions DEDUCED from the flattened diagram (D2, C1, log 9). -/
def fieldRL (v : Word) : Bit := v.extractLsb' 6 1

/-- Field S, bit [5] (R21, R24). -/
def fieldS (v : Word) : Bit := v.extractLsb' 5 1

/-- Field NS, bit [4] (R21, R25). -/
def fieldNS (v : Word) : Bit := v.extractLsb' 4 1

/-- Field E3, bit [3] (R21, R26). -/
def fieldE3 (v : Word) : Bit := v.extractLsb' 3 1

/-- Field E2, bit [2] (R21, R27, R28). -/
def fieldE2 (v : Word) : Bit := v.extractLsb' 2 1

/-- Field E1, bit [1] (R21, R27). -/
def fieldE1 (v : Word) : Bit := v.extractLsb' 1 1

/-- Field E0, bit [0] (R21, R27). -/
def fieldE0 (v : Word) : Bit := v.extractLsb' 0 1

/-- `RES0_MASK(cfg)` (R30, with R22, R28 and R29). -/
def res0Mask (c : Config) : Word :=
  0xFFFFFFFFFFFFFF80#64
    ||| (if c.implRL then 0#64 else 0x40#64)
    ||| (if c.implS then 0#64 else 0x20#64)
    ||| (if c.implNS then 0#64 else 0x10#64)
    ||| (if c.implE3 then 0#64 else 0x08#64)
    ||| (if c.haveEL2Any then 0#64 else 0x04#64)

/-- `FIELD_MASK(cfg)` (R30). -/
def fieldMask (c : Config) : Word := ~~~ res0Mask c

/-- `WRITABLE_MASK(cfg)` (R30). -/
def writableMask (c : Config) : Word := fieldMask c ||| c.res0StorageMask

/-- `Stored(v)`: what a write of `v` leaves in storage (R30, R98). -/
def stored (c : Config) (v : Word) : Word := v &&& writableMask c

/-- `Eff(v)`: the bits that have an effect (R33, C7). -/
def eff (c : Config) (v : Word) : Word := v &&& fieldMask c

/-- The constraint of R30 on a configuration: `RES0_STORAGE_MASK & ~RES0_MASK(cfg) = 0`. -/
abbrev storageMaskOk (c : Config) : Prop := c.res0StorageMask &&& ~~~ res0Mask c = 0#64

/-- The bit of the Security state that acts together with `E<m>` at EL0 to EL2 (R32): RL, S or NS. -/
def securityBit : SecurityState → Word
  | .realm => 0x40#64
  | .secure => 0x20#64
  | .nonSecure => 0x10#64

/-- `P(ss, el)`: the participating bits of R32. At EL3 the table names no Security state that makes a difference: S and
E3 without FEAT_RME, E3 alone with it, whatever `ss` is (log 23). -/
def participating (featRME : Bool) (ss : SecurityState) : EL → Word
  | .el0 => securityBit ss ||| 0x01#64
  | .el1 => securityBit ss ||| 0x02#64
  | .el2 => securityBit ss ||| 0x04#64
  | .el3 => if featRME then 0x08#64 else 0x28#64

/-- `Reg_Permits(ss, el)` for a reader that sees `v`: every participating bit of `Eff(v)` is 1 (R33). -/
def regPermits (c : Config) (v : Word) (ss : SecurityState) (el : EL) : Bool :=
  eff c v &&& participating c.featRME ss el == participating c.featRME ss el

end Sys2Proof.Machine
end

