-- ==== Sys2Proof/Machine/Operands.lean ====
section
/-! DEFINITION. The one operand form: the general-purpose register `X[t, 64]` (R34, R72). -/

namespace Sys2Proof.Machine

/-- `x[t]` of a register file. PRESUMED (G4 in R34, log 5): 0 to 30 are X0 to X30, 31 reads as zero. -/
def XFile.get (x : XFile) (t : RegNum) : Word :=
  if h : t.toNat < 31 then x[t.toNat] else 0#64

/-- `x[t] <- v` of a register file. PRESUMED (G4 in R34, log 5): a write of register 31 is discarded. -/
def XFile.put (x : XFile) (t : RegNum) (v : Word) : XFile :=
  if h : t.toNat < 31 then x.set t.toNat v else x

/-- `x[t]` (R13, R34). -/
def readX (t : RegNum) (s : State) : Word := XFile.get s.x t

/-- `x[t] <- v` (R13, R34). -/
def writeX (t : RegNum) (v : Word) (s : State) : State := { s with x := XFile.put s.x t v }

end Sys2Proof.Machine
end

