-- ==== Sys2Proof/Machine/Ops.lean ====
section
/-! DEFINITION. The shared operations: reading and writing the register (R43, R54, R97), ending a PE step with an outcome
and coming back from the enclosing machine's hook (R120 to R123, R126), and the presence and access checks (R90 to
R95). -/

namespace Sys2Proof.Machine

/-- `View` (R43): what a reader that draws `dHi` and `dLo` sees of the register. -/
def view (c : Config) (r : Trc) (dHi dLo : HalfWord) : Word :=
  ((if r.settledHi then r.value.extractLsb' 32 32 else dHi)
    ++ (if r.settledLo then r.value.extractLsb' 0 32 else dLo)) &&& writableMask c

/-- The view of contents `r` at the present reading step of `s`, with this step's fresh draws (R43, log 7). -/
def viewNow (r : Trc) (s : State) : Word :=
  view s.cfg r (Config.drawHi s.resets s.draws) (Config.drawLo s.resets s.draws)

/-- A reading step has used its draws: the next one draws afresh (R43). -/
def drawn (s : State) : State := { s with draws := s.draws + 1 }

/-- The register after a System register write of `v`: `Stored(v)`, both halves settled (R97, R98). -/
def Trc.write (c : Config) (v : Word) : Trc :=
  { value := stored c v, settledLo := true, settledHi := true }

/-- The register after an external write of `w`: the low half is `Stored(zext_64(w))[31:0]` and settled, the high half
and its flag stay (R54). -/
def Trc.writeLow (c : Config) (r : Trc) (w : HalfWord) : Trc :=
  { value := (r.value &&& 0xFFFFFFFF00000000#64)
      ||| ((stored c (w.setWidth 64)).extractLsb' 0 32).setWidth 64
    settledLo := true
    settledHi := r.settledHi }

/-- Replace the register's contents by a write. The trace unit may see the contents before it until `TraceSync`
(R66, log 14). -/
def storeTrc (r : Trc) (s : State) : State := { s with trc := r, visible := s.trc :: s.visible }

/-- End a PE step with an outcome (R120). Taking an exception is this and nothing more: the spec fixes the outcome with
its target and its code, leaves `x[t]` and the register alone (R136), and hands the rest to the enclosing machine's hook
(R121 to R123, R126; log 11). -/
def endStep (o : PEOutcome) (s : State) : State := { s with pe := o }

/-- The enclosing machine's hook has run: it leaves whatever inputs and registers it leaves, and the PE goes on (R121 to
R123, R127; log 11). -/
def returnFromHook (env : Env) (x : XFile) (s : State) : State :=
  { s with env := env, x := x, pe := .completed }

/-- The constant of every `AArch64.SystemAccessTrap` call (R122). -/
def trapCode : Nat := 0x18

/-- What a check says of an access. -/
inductive Check where
  /-- Proceed to the next stage (R90). -/
  | proceed
  /-- `raise Undefined`. -/
  | undefined
  /-- `raise SystemAccessTrap(el, 0x18)`. -/
  | trap (el : EL)
  /-- `raise Halt(DebugHalt_SoftwareAccess)`. -/
  | halt
  deriving DecidableEq, Repr

/-- The register is present (R91). -/
def present (c : Config) : Bool := c.featETE && c.sysregTrace && c.featITE

/-- `3P` of R105: the condition of arm 1 of R93 and R94. -/
def undefPriority (c : Config) (e : Env) : Bool :=
  c.haveEL3 && e.el3SDDUndefPriority && e.cptrEL3TTA == 1#1

/-- `3T` of R105: the condition of arm 5 of R93 and arm 3 of R94. -/
def el3Traps (c : Config) (e : Env) : Bool := c.haveEL3 && e.cptrEL3TTA == 1#1

/-- `TRC_FG` of R93: the fine-grained control of the direction. -/
def fineGrainedControl (e : Env) : Dir → Bit
  | .read => e.hdfgrtrEL2TRC
  | .write => e.hdfgwtrEL2TRC

/-- `FG` of R105: the condition of arm 4 of R93. `SCR_EL3.FGTEn` does not matter when EL3 is absent (R14). -/
def fineGrainedTraps (c : Config) (e : Env) (dir : Dir) : Bool :=
  e.el2Enabled && c.featFGT && (!c.haveEL3 || e.scrEL3FGTEn == 1#1) && fineGrainedControl e dir == 1#1

/-- `H` of R105: the condition of arm 6 of R93, and with `!ELUsingAArch32(EL1)` of the halt arms of R94 and R95. -/
def haltCondition (c : Config) (e : Env) : Bool :=
  c.featTRBEEXT && e.oslsrEL1OSLK == 0#1 && e.haltingAllowed && e.edscr2TTA == 1#1

/-- The EL3 trap arm of R93 and R94, once reached. -/
def el3Arm (e : Env) : Check := if e.el3SDDUndef then .undefined else .trap .el3

/-- The access check at EL1 (R93). -/
def checkEL1 (c : Config) (e : Env) (dir : Dir) : Check :=
  if undefPriority c e then .undefined
  else if e.cpacrEL1TTA == 1#1 then .trap .el1
  else if e.el2Enabled && e.cptrEL2TTA == 1#1 then .trap .el2
  else if fineGrainedTraps c e dir then .trap .el2
  else if el3Traps c e then el3Arm e
  else if haltCondition c e then .halt
  else .proceed

/-- The access check at EL2 (R94). -/
def checkEL2 (c : Config) (e : Env) : Check :=
  if undefPriority c e then .undefined
  else if e.cptrEL2TTA == 1#1 then .trap .el2
  else if el3Traps c e then el3Arm e
  else if !e.el1UsingAArch32 && haltCondition c e then .halt
  else .proceed

/-- The access check at EL3 (R95). -/
def checkEL3 (c : Config) (e : Env) : Check :=
  if e.cptrEL3TTA == 1#1 then .trap .el3
  else if !e.el1UsingAArch32 && haltCondition c e then .halt
  else .proceed

/-- `AccessCheck(dir)` (R90, R92 to R95). -/
def accessCheck (c : Config) (e : Env) (dir : Dir) : Check :=
  match e.pstateEL with
  | .el0 => .undefined
  | .el1 => checkEL1 c e dir
  | .el2 => checkEL2 c e
  | .el3 => checkEL3 c e

/-- The presence check (R91). -/
def presenceCheck (c : Config) : Check := if present c then .proceed else .undefined

/-- Run a second check only when the first lets the access proceed. -/
def Check.andThen : Check → Check → Check
  | .proceed, k => k
  | .undefined, _ => .undefined
  | .trap el, _ => .trap el
  | .halt, _ => .halt

/-- Stages (1) and (2) of R90: presence first, then the access check (R91, D4); the other order where
`absent_before_traps` is false (R9, D4; DEDUCED, log 10). -/
def gate (c : Config) (e : Env) (dir : Dir) : Check :=
  if c.absentBeforeTraps then (presenceCheck c).andThen (accessCheck c e dir)
  else (accessCheck c e dir).andThen (presenceCheck c)

/-- A step of the PE on an accessor (R90): the checks, then the transfer, or the outcome of the first check that ends
the step, with nothing written (R136). -/
def accessorStep (dir : Dir) (t : RegNum) (transfer : State → Host.Outcome State Fault Refusal) (s : State) :
    Host.Outcome State Fault Refusal :=
  match gate s.cfg s.env dir with
  | .proceed => transfer s
  | .undefined => .next (endStep .undefined s)
  | .trap el => .next (endStep (.systemAccessTrap el trapCode dir t) s)
  | .halt => .next (endStep (.halt .softwareAccess) s)

end Sys2Proof.Machine
end

