-- ==== Sys2Proof/Machine/Agents.lean ====
section
/-! DEFINITION. The steps of the agents other than the PE (R18): the external debugger (R53 to R57), the trace unit (R33,
R66), reset (R151) and the enclosing machine (R11), and the PE's fetch of a presented word (R73, R123). -/

namespace Sys2Proof.Machine

/-- What fetching a word gives: an instruction to run, or a refusal. -/
inductive Fetched where
  | instr (i : Instr)
  | stop (r : Refusal)
  deriving DecidableEq, Repr

/-- The PE takes a presented word: only when no outcome is still with its hook (R121 to R123, log 18), and only an accessor
of this spec (R73). -/
def fetch (w : InsnWord) (s : State) : Fetched :=
  if s.pe = .completed then
    match decode w with
    | .ok i => .instr i
    | .otherRegister op0 op1 crn crm op2 => .stop (.sysregNotInSpec op0 op1 crn crm op2)
    | .notSysregMove => .stop (.notSysregMove w)
  else .stop (.peNotRunning s.pe)

/-- An access from AArch32 state is refused by name (D23). -/
def aarch32Access (_s : State) : Host.Outcome State Fault Refusal := .refused .aarch32Access

/-- The access is to this register's whole 32-bit word (R57, R60). -/
def ExtAccess.wholeWord (c : Config) (a : ExtAccess) : Bool := a.offset == c.extOffset && a.bits == 32

/-- The external debugger reads (R53): `View[31:0]` where admitted, a value nothing constrains where not (R55); no state
of the spec changes. -/
def extRead (a : ExtAccess) (s : State) : Host.Outcome State Fault Refusal :=
  if a.wholeWord s.cfg then
    if Config.extAccessOk s.trc s.env .read then
      .next (drawn { s with extData := some ((viewNow s.trc s).extractLsb' 0 32) })
    else .next (drawn { s with extData := some (Config.notAdmittedData s.draws) })
  else .refused (.externalShape a)

/-- An admitted external write (R54): a fault while the trace unit is not Idle, else the low half is written. -/
def extWriteAdmitted (w : HalfWord) (s : State) : Host.Outcome State Fault Refusal :=
  if s.env.traceUnitIdle then .next (storeTrc (Trc.writeLow s.cfg s.trc w) s)
  else .fault .cuWriteNotIdle

/-- The external debugger writes (R54); an access not admitted has no effect (R55). -/
def extWrite (a : ExtAccess) (w : HalfWord) (s : State) : Host.Outcome State Fault Refusal :=
  if a.wholeWord s.cfg then
    if Config.extAccessOk s.trc s.env .write then extWriteAdmitted w s else .next s
  else .refused (.externalShape a)

/-- The contents a reading step of the trace unit sees: the register's, or those before a write that `TraceSync` has not
followed yet (R66, log 14). -/
def traceContents (s : State) : Trc :=
  (s.trc :: s.visible).getD (Config.pickVisible s.draws % (s.visible.length + 1)) s.trc

/-- `ITE_Permitted(ss, el)` (R33), for a trace unit that sees the value `v`. -/
def itePermitted (c : Config) (e : Env) (v : Word) (ss : SecurityState) (el : EL) (n : Nat) : Bool :=
  if e.selfHostedTraceEnabled then Config.selfHostedPermitted ss el n
  else if regPermits c v ss el then Config.itoGate e.trcconfigrITO ss el n
  else false

/-- The trace unit decides whether Instrumentation trace is permitted at a place (R33); it never writes the register
(R18). -/
def traceRead (ss : SecurityState) (el : EL) (s : State) : Host.Outcome State Fault Refusal :=
  .next (drawn { s with
    traceDecision := some (itePermitted s.cfg s.env (viewNow (traceContents s) s) ss el s.draws) })

/-- `env.TraceSync`: from now on the trace unit sees only the register's present contents (R66). -/
def traceSync (s : State) : Host.Outcome State Fault Refusal := .next { s with visible := [] }

/-- The reset step (R151): both halves unsettled, the stored value 0; nothing else of the spec's state exists to reset. -/
def resetTrc (s : State) : Host.Outcome State Fault Refusal :=
  .next { s with trc := Trc.reset, resets := s.resets + 1 }

/-- The enclosing machine changes its inputs or its registers between the steps of the agents (R11, R37). -/
def enclosing (env : Env) (x : XFile) (s : State) : Host.Outcome State Fault Refusal :=
  .next { s with env := env, x := x }

/-- The hook `take_undefined` (R121) runs on a pending `Undefined`. -/
def takeUndefined (env : Env) (x : XFile) (s : State) : Host.Outcome State Fault Refusal :=
  match s.pe with
  | .undefined => .next (returnFromHook env x s)
  | .completed => .refused .hookNotPending
  | .systemAccessTrap _ _ _ _ => .refused .hookNotPending
  | .halt _ => .refused .hookNotPending

/-- The hook `take_system_access_trap` (R122) runs on a pending `SystemAccessTrap`. -/
def takeSystemAccessTrap (env : Env) (x : XFile) (s : State) : Host.Outcome State Fault Refusal :=
  match s.pe with
  | .systemAccessTrap _ _ _ _ => .next (returnFromHook env x s)
  | .completed => .refused .hookNotPending
  | .undefined => .refused .hookNotPending
  | .halt _ => .refused .hookNotPending

/-- The hook `resume_from_halt` (R123) restarts a halted PE. -/
def resumeFromHalt (env : Env) (x : XFile) (s : State) : Host.Outcome State Fault Refusal :=
  match s.pe with
  | .halt _ => .next (returnFromHook env x s)
  | .completed => .refused .hookNotPending
  | .undefined => .refused .hookNotPending
  | .systemAccessTrap _ _ _ _ => .refused .hookNotPending

end Sys2Proof.Machine
end

