-- ==== Sys2Proof/Machine/Sysreg.lean ====
section
/-! DEFINITION. The family of System register moves: the meanings of the two accessors (R96, R97). -/

namespace Sys2Proof.Machine

/-- `MRS <Xt>, TRCITEEDCR` (R96): `x[t] <- View`, on a completed access only; the register and its flags are unchanged
(R59). There is no Idle test. -/
def execMrsTrciteedcr (t : RegNum) (s : State) : Host.Outcome State Fault Refusal :=
  accessorStep .read t
    (fun s => .next (endStep .completed (drawn (writeX t (viewNow s.trc s) s)))) s

/-- `MSR TRCITEEDCR, <Xt>` (R97): the Idle test (R99), then `TRCITEEDCR <- Stored(x[t])` with both halves settled. -/
def execMsrTrciteedcr (t : RegNum) (s : State) : Host.Outcome State Fault Refusal :=
  accessorStep .write t
    (fun s =>
      if s.env.traceUnitIdle then
        .next (endStep .completed (storeTrc (Trc.write s.cfg (readX t s)) s))
      else .fault .cuWriteNotIdle) s

end Sys2Proof.Machine
end

