-- ==== Sys2Proof/Machine/Dispatch.lean ====
section
/-! DEFINITION. One arm per instruction: its meaning. -/

namespace Sys2Proof.Machine

def exec (i : Instr) (s : State) : Host.Outcome State Fault Refusal :=
  match i with
  | .mrsTrciteedcr t => Sys2Proof.Machine.execMrsTrciteedcr t s
  | .msrTrciteedcr t => Sys2Proof.Machine.execMsrTrciteedcr t s

end Sys2Proof.Machine
end

