-- ==== Sys2Proof/Machine/Step.lean ====
section
/-! DEFINITION. One step of the machine: the next agent of the total order acts (R18, R62). -/

namespace Sys2Proof.Machine

/-- The step of the agent an event names. -/
def runEvent : Event → State → Host.Outcome State Fault Refusal
  | .fetch w, s =>
    match fetch w s with
    | .instr i => exec i s
    | .stop r => .refused r
  | .aarch32Access, s => aarch32Access s
  | .extRead a, s => extRead a s
  | .extWrite a w, s => extWrite a w s
  | .traceRead ss el, s => traceRead ss el s
  | .traceSync, s => traceSync s
  | .reset, s => resetTrc s
  | .enclosing env x, s => enclosing env x s
  | .takeUndefined env x, s => takeUndefined env x s
  | .takeSystemAccessTrap env x, s => takeSystemAccessTrap env x s
  | .resumeFromHalt env x, s => resumeFromHalt env x s

/-- One step: the first event of the agenda, taken off it (R62). With nothing scheduled no agent acts and nothing changes
(log 1). -/
def step (s : State) : Host.Outcome State Fault Refusal :=
  match s.agenda with
  | [] => .next s
  | e :: rest => runEvent e { s with agenda := rest }

/-- `s` with an instruction presented to the PE as the very next event, and no outcome pending (log 17). -/
def State.withFetchWord (s : State) (nbits w : Nat) : State :=
  { s with
    pe := .completed
    agenda := .fetch (BitVec.ofNat 32 (w % 2 ^ nbits)) :: s.agenda }

end Sys2Proof.Machine
end

