-- ==== Sys2Proof/Safety.lean ====
section
/-! DEFINITION. The words claims use: when an access is permitted, the decision table of R105, the participating bits of
R32 as bit numbers, what a well-formed state is, and the named premises of R11. -/

namespace Sys2Proof.Machine

/-- The fine-grained trap condition of arm 4 of R93. -/
abbrev FineGrainedTrap (c : Config) (e : Env) (dir : Dir) : Prop :=
  e.el2Enabled = true ∧ c.featFGT = true ∧ (c.haveEL3 = true → e.scrEL3FGTEn = 1#1)
    ∧ fineGrainedControl e dir = 1#1

/-- The halt condition of R123, without the AArch32 term of EL2 and EL3. -/
abbrev HaltOnAccess (c : Config) (e : Env) : Prop :=
  c.featTRBEEXT = true ∧ e.oslsrEL1OSLK = 0#1 ∧ e.haltingAllowed = true ∧ e.edscr2TTA = 1#1

/-- The condition of the EL3 arms of R93 and R94. -/
abbrev EL3Trap (c : Config) (e : Env) : Prop := c.haveEL3 = true ∧ e.cptrEL3TTA = 1#1

/-- The register is present (R91). -/
abbrev RegisterPresent (c : Config) : Prop := c.featETE = true ∧ c.sysregTrace = true ∧ c.featITE = true

/-- No arm of the access check at the current Exception level ends the step (R92 to R95). -/
abbrev ChecksPass (c : Config) (e : Env) (dir : Dir) : Prop :=
  (e.pstateEL = .el1 ∧ ¬ EL3Trap c e ∧ e.cpacrEL1TTA ≠ 1#1 ∧ ¬ (e.el2Enabled = true ∧ e.cptrEL2TTA = 1#1)
      ∧ ¬ FineGrainedTrap c e dir ∧ ¬ HaltOnAccess c e)
    ∨ (e.pstateEL = .el2 ∧ ¬ EL3Trap c e ∧ e.cptrEL2TTA ≠ 1#1
      ∧ ¬ (e.el1UsingAArch32 = false ∧ HaltOnAccess c e))
    ∨ (e.pstateEL = .el3 ∧ e.cptrEL3TTA ≠ 1#1 ∧ ¬ (e.el1UsingAArch32 = false ∧ HaltOnAccess c e))

/-- The access reaches its transfer: the register is present and no check ends the step (R90). -/
abbrev AccessPermitted (c : Config) (e : Env) (dir : Dir) : Prop := RegisterPresent c ∧ ChecksPass c e dir

/-- The table of R105: Exception level, condition, outcome, in the table's order. -/
def decisionTable (c : Config) (e : Env) (dir : Dir) : List (EL × Bool × Check) :=
  [ (.el0, true, .undefined),
    (.el1, decide (c.haveEL3 = true ∧ e.el3SDDUndefPriority = true ∧ e.cptrEL3TTA = 1#1), .undefined),
    (.el1, decide (e.cpacrEL1TTA = 1#1), .trap .el1),
    (.el1, decide (e.el2Enabled = true ∧ e.cptrEL2TTA = 1#1), .trap .el2),
    (.el1, decide (FineGrainedTrap c e dir), .trap .el2),
    (.el1, decide (EL3Trap c e ∧ e.el3SDDUndef = true), .undefined),
    (.el1, decide (EL3Trap c e ∧ e.el3SDDUndef = false), .trap .el3),
    (.el1, decide (HaltOnAccess c e), .halt),
    (.el1, true, .proceed),
    (.el2, decide (c.haveEL3 = true ∧ e.el3SDDUndefPriority = true ∧ e.cptrEL3TTA = 1#1), .undefined),
    (.el2, decide (e.cptrEL2TTA = 1#1), .trap .el2),
    (.el2, decide (EL3Trap c e ∧ e.el3SDDUndef = true), .undefined),
    (.el2, decide (EL3Trap c e ∧ e.el3SDDUndef = false), .trap .el3),
    (.el2, decide (e.el1UsingAArch32 = false ∧ HaltOnAccess c e), .halt),
    (.el2, true, .proceed),
    (.el3, decide (e.cptrEL3TTA = 1#1), .trap .el3),
    (.el3, decide (e.el1UsingAArch32 = false ∧ HaltOnAccess c e), .halt),
    (.el3, true, .proceed) ]

/-- The outcome of the first row of a table for Exception level `el` whose condition holds. -/
def firstRow (el : EL) : List (EL × Bool × Check) → Option Check
  | [] => none
  | (l, cond, k) :: rest => if l = el ∧ cond = true then some k else firstRow el rest

/-- Bit `j` of the register is a field under the configuration (R21, R28, R29). -/
def fieldAt (c : Config) : Nat → Bool
  | 0 => true
  | 1 => true
  | 2 => c.haveEL2Any
  | 3 => c.implE3
  | 4 => c.implNS
  | 5 => c.implS
  | 6 => c.implRL
  | _ => false

/-- Bit `j` of the register is one that a write can change (R30). -/
def writableAt (c : Config) (j : Nat) : Bool := fieldAt c j || c.res0StorageMask.getLsbD j

/-- The number of the Security state's bit (R23 to R25). -/
def SecurityState.bit : SecurityState → Nat
  | .realm => 6
  | .secure => 5
  | .nonSecure => 4

/-- The participating bits of R32 by number. -/
def participants (c : Config) (ss : SecurityState) : EL → List Nat
  | .el0 => [ss.bit, 0]
  | .el1 => [ss.bit, 1]
  | .el2 => [ss.bit, 2]
  | .el3 => if c.featRME then [3] else [5, 3]

/-- Register contents that the rules can leave: nothing outside WRITABLE_MASK (R30), the high half settled only with the
low half (R43, R54, R97), and an unsettled half stored as 0 (R151). -/
abbrev TrcOk (c : Config) (r : Trc) : Prop :=
  r.value &&& ~~~ writableMask c = 0#64
    ∧ (r.settledHi = true → r.settledLo = true)
    ∧ (r.settledLo = false → r.value.extractLsb' 0 32 = 0#32)
    ∧ (r.settledHi = false → r.value.extractLsb' 32 32 = 0#32)

/-- An outcome the checks can give: a trap has the code `0x18` and a target of EL1, EL2 or EL3 (R120, R122). -/
def outcomeOk : PEOutcome → Bool
  | .completed => true
  | .undefined => true
  | .systemAccessTrap el code _ _ => el != .el0 && code == 0x18
  | .halt _ => true

/-- The invariant of the machine: a legal storage mask (R30), register contents that the rules can leave, now and in
everything the trace unit may still see (R30, R66), and a legal outcome (R120). -/
abbrev StateInv (s : State) : Prop :=
  storageMaskOk s.cfg ∧ TrcOk s.cfg s.trc ∧ (∀ r ∈ s.visible, TrcOk s.cfg r) ∧ outcomeOk s.pe = true

/-- How a step ended, without the state: the recorded outcome of a next state. -/
def recordedOutcome : Host.Outcome State Fault Refusal → Option PEOutcome
  | .next s => some s.pe
  | .fault _ => none
  | .refused _ => none

/-- The event is an external write. -/
def Event.isExtWrite : Event → Bool
  | .extWrite _ _ => true
  | .fetch _ => false
  | .aarch32Access => false
  | .extRead _ => false
  | .traceRead _ _ => false
  | .traceSync => false
  | .reset => false
  | .enclosing _ _ => false
  | .takeUndefined _ _ => false
  | .takeSystemAccessTrap _ _ => false
  | .resumeFromHalt _ _ => false

/-- The premise `NoExternalWrites` (R11, R55): no external write is scheduled. -/
def NoExternalWrites (s : State) : Prop := ∀ e ∈ s.agenda, e.isExtWrite = false

/-- The premise `ResetValueStable` (R11, R43): the draws are fixed at the reset step. It errs toward proving, and no
statement of this package takes it. -/
def ResetValueStable : Prop :=
  ∀ resets m n : Nat, Config.drawHi resets m = Config.drawHi resets n ∧ Config.drawLo resets m = Config.drawLo resets n

/-- The premise `TraceSync` at every write (R11, R66), as it shows in a state: no write is waiting for its `TraceSync`. -/
abbrev TraceSynced (s : State) : Prop := s.visible = []

end Sys2Proof.Machine
end

