-- ==== Sys2Proof/Certificates/Slice0/Obligations.lean ====
section
/-! DEFINITION. The statements about the machine, from the spec's numbered rules. -/

open Sys2Proof Sys2Proof.Machine

/-! ## Encoding -/

/-- Words of spec/95 2.7: accessors at both ends of `t`, and near words that are refused by name. The layout is the
spec's general knowledge G2 (PRESUMED, log 16). -/
def Obligations.TableWordsDecode : Prop :=
  decode 0xD5310220#32 = .ok (.mrsTrciteedcr 0#5) ∧ decode 0xD531023E#32 = .ok (.mrsTrciteedcr 30#5)
    ∧ decode 0xD531023F#32 = .ok (.mrsTrciteedcr 31#5)
    ∧ decode 0xD5110220#32 = .ok (.msrTrciteedcr 0#5) ∧ decode 0xD5110225#32 = .ok (.msrTrciteedcr 5#5)
    ∧ decode 0xD511023F#32 = .ok (.msrTrciteedcr 31#5)
    ∧ decode 0xD5310240#32 = .otherRegister 2#2 1#3 0#4 2#4 2#3
    ∧ decode 0xD5390220#32 = .otherRegister 3#2 1#3 0#4 2#4 1#3
    ∧ decode 0xD5210220#32 = .notSysregMove

/-- R75: a word is an accessor with `t = w[4:0]` exactly when it matches that accessor's row under the mask. The layout
is the spec's general knowledge G2 (PRESUMED, log 16). -/
def Obligations.WordIsAccessorExactlyOnItsRow : Prop :=
  ∀ (w : InsnWord) (t : RegNum),
    (decode w = .ok (.mrsTrciteedcr t) ↔ w &&& 0xFFFFFFE0#32 = 0xD5310220#32 ∧ t = w.extractLsb' 0 5)
      ∧ (decode w = .ok (.msrTrciteedcr t) ↔ w &&& 0xFFFFFFE0#32 = 0xD5110220#32 ∧ t = w.extractLsb' 0 5)

/-- Decoding and encoding agree: a word decodes to an instruction exactly when it is that instruction's word. -/
def Obligations.DecodeAndEncodeAgree : Prop :=
  ∀ (w : InsnWord) (i : Instr), decode w = .ok i ↔ w = encode i

/-- R73: the word of a System register move (`op0 = 0b1x`, R74) that names another register is refused by name, with
its own five fields. -/
def Obligations.OtherRegistersAreNamedAndRefused : Prop :=
  ∀ m : SysMove, m.op0.getLsbD 1 = true →
    ¬ (m.op0 = 2#2 ∧ m.op1 = 1#3 ∧ m.crn = 0#4 ∧ m.crm = 2#4 ∧ m.op2 = 1#3) →
      decode m.encode = .otherRegister m.op0 m.op1 m.crn m.crm m.op2

/-! ## The PE's step -/

/-- A step with a presented word that decodes to `i`, no outcome pending, is `exec` of `i` with the event taken off.
That words reach the PE as events of an agenda is the model's (DESIGN CHOICE, log 1, log 17). -/
def Obligations.StepRunsTheDecodedInstruction : Prop :=
  ∀ (s : State) (w : InsnWord) (rest : List Event) (i : Instr),
    s.agenda = .fetch w :: rest → s.pe = .completed → decode w = .ok i →
      step s = exec i { s with agenda := rest }

/-- R73: a presented word that is no accessor is refused by name (the refusal is U10, log 22). -/
def Obligations.StepRefusesWhatIsNoAccessor : Prop :=
  ∀ (s : State) (w : InsnWord) (rest : List Event), s.agenda = .fetch w :: rest → s.pe = .completed →
    (∀ a b c d e, decode w = .otherRegister a b c d e → step s = .refused (.sysregNotInSpec a b c d e))
      ∧ (decode w = .notSysregMove → step s = .refused (.notSysregMove w))

/-- R121 to R123: while an outcome is with its hook the PE has no step; the hook's return lets it go on, with the inputs
and registers the hook left and nothing else changed. The refusal by name is the model's choice (log 18). -/
def Obligations.PendingOutcomeWaitsForItsHook : Prop :=
  ∀ (s : State) (w : InsnWord) (rest : List Event) (env : Env) (x : XFile), s.pe ≠ .completed →
    (s.agenda = .fetch w :: rest → step s = .refused (.peNotRunning s.pe))
      ∧ (s.agenda = .takeUndefined env x :: rest → s.pe = .undefined →
          step s = .next { s with agenda := rest, env := env, x := x, pe := .completed })
      ∧ (∀ el code d t, s.agenda = .takeSystemAccessTrap env x :: rest → s.pe = .systemAccessTrap el code d t →
          step s = .next { s with agenda := rest, env := env, x := x, pe := .completed })
      ∧ (∀ r, s.agenda = .resumeFromHalt env x :: rest → s.pe = .halt r →
          step s = .next { s with agenda := rest, env := env, x := x, pe := .completed })

/-- The enclosing machine may change its inputs (R11, R37) and the X registers, which are its own (R34, R42, D17), between
any two PE steps. That it does so as an event of the agenda, replacing both and changing nothing else, is the model's
(DESIGN CHOICE, log 1, log 4). -/
def Obligations.EnclosingMachineStep : Prop :=
  ∀ (s : State) (env : Env) (x : XFile) (rest : List Event), s.agenda = .enclosing env x :: rest →
    step s = .next { s with agenda := rest, env := env, x := x }

/-! ## The checks -/

/-- R91: an absent register makes every access Undefined, at every Exception level, with nothing written. That presence
comes before the access check is the spec's own decision (D4, C4; log 10), taken here as the hypothesis
`absent_before_traps` true. -/
def Obligations.AbsentRegisterIsUndefined : Prop :=
  ∀ (i : Instr) (s : State), s.cfg.absentBeforeTraps = true → ¬ RegisterPresent s.cfg →
    exec i s = .next { s with pe := .undefined }

/-- With `absent_before_traps` false an access to an absent register is Undefined where the access check lets it proceed
or is itself Undefined, and traps or halts where the check does. The order is the model's reading of the parameter
(DEDUCED, log 10). -/
def Obligations.AbsentRegisterAfterTheTraps : Prop :=
  ∀ (i : Instr) (s : State), s.cfg.absentBeforeTraps = false → ¬ RegisterPresent s.cfg →
    (ChecksPass s.cfg s.env i.toMove.dir → exec i s = .next { s with pe := .undefined })
      ∧ (accessCheck s.cfg s.env i.toMove.dir = .undefined → exec i s = .next { s with pe := .undefined })
      ∧ (∀ el, accessCheck s.cfg s.env i.toMove.dir = .trap el →
          exec i s = .next { s with pe := .systemAccessTrap el 0x18 i.toMove.dir i.toMove.t })
      ∧ (accessCheck s.cfg s.env i.toMove.dir = .halt → exec i s = .next { s with pe := .halt .softwareAccess })

/-- R92: at EL0 an access is Undefined, read and write alike, whatever the other inputs are. -/
def Obligations.El0AccessIsUndefined : Prop :=
  ∀ (i : Instr) (s : State), s.env.pstateEL = .el0 → exec i s = .next { s with pe := .undefined }

/-- R93: the seven arms of the access check at EL1, in their order. -/
def Obligations.El1ArmsInOrder : Prop :=
  ∀ (i : Instr) (s : State), s.env.pstateEL = .el1 → RegisterPresent s.cfg →
    if s.cfg.haveEL3 = true ∧ s.env.el3SDDUndefPriority = true ∧ s.env.cptrEL3TTA = 1#1 then
      exec i s = .next { s with pe := .undefined }
    else if s.env.cpacrEL1TTA = 1#1 then
      exec i s = .next { s with pe := .systemAccessTrap .el1 0x18 i.toMove.dir i.toMove.t }
    else if s.env.el2Enabled = true ∧ s.env.cptrEL2TTA = 1#1 then
      exec i s = .next { s with pe := .systemAccessTrap .el2 0x18 i.toMove.dir i.toMove.t }
    else if s.env.el2Enabled = true ∧ s.cfg.featFGT = true ∧ (s.cfg.haveEL3 = false ∨ s.env.scrEL3FGTEn = 1#1)
        ∧ fineGrainedControl s.env i.toMove.dir = 1#1 then
      exec i s = .next { s with pe := .systemAccessTrap .el2 0x18 i.toMove.dir i.toMove.t }
    else if s.cfg.haveEL3 = true ∧ s.env.cptrEL3TTA = 1#1 then
      if s.env.el3SDDUndef = true then exec i s = .next { s with pe := .undefined }
      else exec i s = .next { s with pe := .systemAccessTrap .el3 0x18 i.toMove.dir i.toMove.t }
    else if s.cfg.featTRBEEXT = true ∧ s.env.oslsrEL1OSLK = 0#1 ∧ s.env.haltingAllowed = true
        ∧ s.env.edscr2TTA = 1#1 then
      exec i s = .next { s with pe := .halt .softwareAccess }
    else gate s.cfg s.env i.toMove.dir = .proceed

/-- R94: the five arms of the access check at EL2, in their order, the same for read and write. -/
def Obligations.El2ArmsInOrder : Prop :=
  ∀ (i : Instr) (s : State), s.env.pstateEL = .el2 → RegisterPresent s.cfg →
    if s.cfg.haveEL3 = true ∧ s.env.el3SDDUndefPriority = true ∧ s.env.cptrEL3TTA = 1#1 then
      exec i s = .next { s with pe := .undefined }
    else if s.env.cptrEL2TTA = 1#1 then
      exec i s = .next { s with pe := .systemAccessTrap .el2 0x18 i.toMove.dir i.toMove.t }
    else if s.cfg.haveEL3 = true ∧ s.env.cptrEL3TTA = 1#1 then
      if s.env.el3SDDUndef = true then exec i s = .next { s with pe := .undefined }
      else exec i s = .next { s with pe := .systemAccessTrap .el3 0x18 i.toMove.dir i.toMove.t }
    else if s.env.el1UsingAArch32 = false ∧ s.cfg.featTRBEEXT = true ∧ s.env.oslsrEL1OSLK = 0#1
        ∧ s.env.haltingAllowed = true ∧ s.env.edscr2TTA = 1#1 then
      exec i s = .next { s with pe := .halt .softwareAccess }
    else gate s.cfg s.env i.toMove.dir = .proceed

/-- R95: the three arms of the access check at EL3, in their order, the same for read and write. -/
def Obligations.El3ArmsInOrder : Prop :=
  ∀ (i : Instr) (s : State), s.env.pstateEL = .el3 → RegisterPresent s.cfg →
    if s.env.cptrEL3TTA = 1#1 then
      exec i s = .next { s with pe := .systemAccessTrap .el3 0x18 i.toMove.dir i.toMove.t }
    else if s.env.el1UsingAArch32 = false ∧ s.cfg.featTRBEEXT = true ∧ s.env.oslsrEL1OSLK = 0#1
        ∧ s.env.haltingAllowed = true ∧ s.env.edscr2TTA = 1#1 then
      exec i s = .next { s with pe := .halt .softwareAccess }
    else gate s.cfg s.env i.toMove.dir = .proceed

/-- R105: the access check is the first row of the decision table whose condition holds, for every configuration, input
and direction; some row always does. -/
def Obligations.AccessCheckIsTheDecisionTable : Prop :=
  ∀ (c : Config) (e : Env) (dir : Dir),
    firstRow e.pstateEL (decisionTable c e dir) = some (accessCheck c e dir)

/-- R90, R97: an access completes exactly when it is permitted, and a write only while the trace unit is Idle. -/
def Obligations.AccessCompletesExactlyWhenPermitted : Prop :=
  ∀ (t : RegNum) (s : State),
    ((∃ s', exec (.mrsTrciteedcr t) s = .next s' ∧ s'.pe = .completed) ↔ AccessPermitted s.cfg s.env .read)
      ∧ ((∃ s', exec (.msrTrciteedcr t) s = .next s' ∧ s'.pe = .completed)
          ↔ AccessPermitted s.cfg s.env .write ∧ s.env.traceUnitIdle = true)

/-- R104: the read and the write check agree where the two fine-grained controls do, and can differ only at EL1, with
the EL3SDD, EL1 and coarse EL2 arms quiet and the first three terms of the fine-grained arm holding. -/
def Obligations.ReadAndWriteChecksDifferOnlyFineGrained : Prop :=
  ∀ (c : Config) (e : Env),
    (e.hdfgrtrEL2TRC = e.hdfgwtrEL2TRC → accessCheck c e .read = accessCheck c e .write)
      ∧ (accessCheck c e .read ≠ accessCheck c e .write →
          e.pstateEL = .el1
            ∧ ¬ (c.haveEL3 = true ∧ e.el3SDDUndefPriority = true ∧ e.cptrEL3TTA = 1#1)
            ∧ e.cpacrEL1TTA ≠ 1#1 ∧ ¬ (e.el2Enabled = true ∧ e.cptrEL2TTA = 1#1)
            ∧ e.el2Enabled = true ∧ c.featFGT = true ∧ (c.haveEL3 = false ∨ e.scrEL3FGTEn = 1#1))

/-- R103 (a), (b): how an access ends does not depend on the register, on the general-purpose registers, on
`SelfHostedTraceEnabled()` or on ITO, nor a read's end on the Idle state; whether it completes does not depend on `t`.
A write's end does depend on the Idle state (R99), so its clauses take that input as equal. -/
def Obligations.OutcomeIgnoresDataAndTraceInputs : Prop :=
  ∀ (s₁ s₂ : State) (t u : RegNum) (selfHosted idle : Bool) (ito : Bit), s₂.cfg = s₁.cfg →
    s₂.env = { s₁.env with selfHostedTraceEnabled := selfHosted, traceUnitIdle := idle, trcconfigrITO := ito } →
      recordedOutcome (exec (.mrsTrciteedcr t) s₂) = recordedOutcome (exec (.mrsTrciteedcr t) s₁)
        ∧ (idle = s₁.env.traceUnitIdle →
            recordedOutcome (exec (.msrTrciteedcr t) s₂) = recordedOutcome (exec (.msrTrciteedcr t) s₁))
        ∧ (recordedOutcome (exec (.mrsTrciteedcr t) s₁) = some .completed
            ↔ recordedOutcome (exec (.mrsTrciteedcr u) s₂) = some .completed)
        ∧ (idle = s₁.env.traceUnitIdle →
            (recordedOutcome (exec (.msrTrciteedcr t) s₁) = some .completed
              ↔ recordedOutcome (exec (.msrTrciteedcr u) s₂) = some .completed))

/-- R127: after a trap to EL2 from EL1 by `CPTR_EL2.TTA`, the handler's same access at EL2 traps to EL2 again while the
controls stay. -/
def Obligations.HandlerAccessTrapsAgain : Prop :=
  ∀ (i : Instr) (s : State), s.env.pstateEL = .el1 → s.env.el2Enabled = true → s.env.cptrEL2TTA = 1#1 →
    exec i s = .next { s with pe := .systemAccessTrap .el2 0x18 i.toMove.dir i.toMove.t } →
      exec i { s with env := { s.env with pstateEL := .el2 } }
        = .next { s with
            env := { s.env with pstateEL := .el2 }
            pe := .systemAccessTrap .el2 0x18 i.toMove.dir i.toMove.t }

/-- R122, R128: a trap carries the code 0x18, the direction and `t`, goes to EL1, EL2 or EL3, and only a control that
R128 lists for the current level sends it there; a halt needs the conditions of R123. Recording the outcome in a next
state is the model's (DESIGN CHOICE, log 11). -/
def Obligations.TrapsComeFromTheirControls : Prop :=
  ∀ (i : Instr) (s s' : State), exec i s = .next s' →
    (∀ el code d t, s'.pe = .systemAccessTrap el code d t →
        code = 0x18 ∧ d = i.toMove.dir ∧ t = i.toMove.t ∧ el ≠ .el0 ∧ s.env.pstateEL ≠ .el0
          ∧ (el = .el1 → s.env.pstateEL = .el1 ∧ s.env.cpacrEL1TTA = 1#1)
          ∧ (el = .el2 → (s.env.pstateEL = .el1 ∧ s.env.el2Enabled = true ∧ s.env.cptrEL2TTA = 1#1)
              ∨ (s.env.pstateEL = .el1 ∧ FineGrainedTrap s.cfg s.env i.toMove.dir)
              ∨ (s.env.pstateEL = .el2 ∧ s.env.cptrEL2TTA = 1#1))
          ∧ (el = .el3 → s.env.cptrEL3TTA = 1#1
              ∧ (s.env.pstateEL = .el3 ∨ (s.cfg.haveEL3 = true ∧ s.env.el3SDDUndef = false))))
      ∧ (∀ r, s'.pe = .halt r → r = .softwareAccess ∧ HaltOnAccess s.cfg s.env
          ∧ (s.env.pstateEL = .el1
              ∨ ((s.env.pstateEL = .el2 ∨ s.env.pstateEL = .el3) ∧ s.env.el1UsingAArch32 = false)))

/-- R136: on any outcome but Completed nothing but the recorded outcome changes (log 11). -/
def Obligations.OutcomesArePrecise : Prop :=
  ∀ (i : Instr) (s s' : State), exec i s = .next s' → s'.pe ≠ .completed → s' = { s with pe := s'.pe }

/-- R99, R120: an accessor is never refused, and it ends in a fault exactly when it is a permitted write while the trace
unit is not Idle. The fault is the spec's own choice (D11, log 12). -/
def Obligations.AccessorStopsOnlyOnWriteNotIdle : Prop :=
  ∀ (i : Instr) (s : State),
    (∀ r, exec i s ≠ .refused r)
      ∧ ((∃ f, exec i s = .fault f)
          ↔ i.toMove.dir = .write ∧ AccessPermitted s.cfg s.env .write ∧ s.env.traceUnitIdle = false)

/-- R100: neither accessor writes an input, the configuration, the agenda or what the other agents last read; the write
accessor writes no general-purpose register and the read accessor does not write the register. -/
def Obligations.AccessorFrame : Prop :=
  ∀ (i : Instr) (s s' : State), exec i s = .next s' →
    s'.env = s.env ∧ s'.cfg = s.cfg ∧ s'.agenda = s.agenda ∧ s'.extData = s.extData
      ∧ s'.traceDecision = s.traceDecision ∧ s'.resets = s.resets
      ∧ (i.toMove.dir = .write → s'.x = s.x ∧ s'.draws = s.draws)
      ∧ (i.toMove.dir = .read → s'.trc = s.trc ∧ s'.visible = s.visible)
      ∧ (∀ u, u ≠ i.toMove.t → readX u s' = readX u s)

/-! ## The transfers -/

/-- R96: a permitted read completes, writes `x[t]` with the view of the register and no other register, writes nothing
for `t = 31` (G4, PRESUMED, log 5), and changes nothing else but the model's count of draws (log 7). -/
def Obligations.MrsCompletes : Prop :=
  ∀ (t : RegNum) (s : State), AccessPermitted s.cfg s.env .read →
    ∃ s', exec (.mrsTrciteedcr t) s = .next s'
      ∧ (t ≠ 31#5 → readX t s' = viewNow s.trc s)
      ∧ (t = 31#5 → s'.x = s.x)
      ∧ (∀ u, u ≠ t → readX u s' = readX u s)
      ∧ s' = { s with x := s'.x, pe := .completed, draws := s.draws + 1 }

/-- R96: on a settled register that keeps R30's invariant the read delivers the stored value, all 64 bits. -/
def Obligations.MrsDeliversTheStoredValue : Prop :=
  ∀ (t : RegNum) (s : State), AccessPermitted s.cfg s.env .read → TrcOk s.cfg s.trc →
    s.trc.settledLo = true → s.trc.settledHi = true → t ≠ 31#5 →
      ∃ s', exec (.mrsTrciteedcr t) s = .next s' ∧ readX t s' = s.trc.value

/-- R43: what a reader sees, bit by bit: a settled half as stored, an unsettled half as this step's draw, both only where
a bit is writable. The draw is a free value (D10, log 7). -/
def Obligations.ViewBitByBit : Prop :=
  ∀ (r : Trc) (s : State) (j : Nat), j < 64 →
    (viewNow r s).getLsbD j = (writableAt s.cfg j &&
      (if j < 32 then
        (if r.settledLo then r.value.getLsbD j else (Config.drawLo s.resets s.draws).getLsbD j)
      else
        (if r.settledHi then r.value.getLsbD j else (Config.drawHi s.resets s.draws).getLsbD (j - 32))))

/-- R96, R152: whatever a read draws, it delivers 0 in every bit that is not writable; with no RES0 storage bits [63:7]
are 0. -/
def Obligations.MrsDeliversOnlyWritableBits : Prop :=
  ∀ (t : RegNum) (s : State), AccessPermitted s.cfg s.env .read → t ≠ 31#5 →
    ∃ s', exec (.mrsTrciteedcr t) s = .next s'
      ∧ (∀ j, writableAt s.cfg j = false → (readX t s').getLsbD j = false)
      ∧ (s.cfg.res0StorageMask = 0#64 → ∀ j, 7 ≤ j → (readX t s').getLsbD j = false)

/-- R97: a permitted write while the trace unit is Idle completes, stores `Stored(x[t])` with both halves settled, and
changes nothing else; the contents before it stay visible to the trace unit (R66, log 14). -/
def Obligations.MsrCompletes : Prop :=
  ∀ (t : RegNum) (s : State), AccessPermitted s.cfg s.env .write → s.env.traceUnitIdle = true →
    exec (.msrTrciteedcr t) s = .next { s with
      trc := { value := stored s.cfg (readX t s), settledLo := true, settledHi := true }
      visible := s.trc :: s.visible
      pe := .completed }

/-- R30, R98: of the value written a field keeps its bit, a RES0 bit keeps it only under the storage mask (D8, log 8), and
every other bit is dropped. -/
def Obligations.StoredKeepsExactlyTheWritableBits : Prop :=
  ∀ (c : Config) (v : Word) (j : Nat),
    (stored c v).getLsbD j = (v.getLsbD j && (fieldAt c j || c.res0StorageMask.getLsbD j))

/-- R23 to R28: each field is written by the write accessor, where the configuration makes it a field: it takes the bit of
`x[t]` at its own position. The positions are DEDUCED (D2, log 9). -/
def Obligations.MsrWritesEachField : Prop :=
  ∀ (t : RegNum) (s : State), AccessPermitted s.cfg s.env .write → s.env.traceUnitIdle = true →
    ∃ s', exec (.msrTrciteedcr t) s = .next s'
      ∧ fieldE0 s'.trc.value = fieldE0 (readX t s) ∧ fieldE1 s'.trc.value = fieldE1 (readX t s)
      ∧ (s.cfg.haveEL2Any = true → fieldE2 s'.trc.value = fieldE2 (readX t s))
      ∧ (s.cfg.implE3 = true → fieldE3 s'.trc.value = fieldE3 (readX t s))
      ∧ (s.cfg.implNS = true → fieldNS s'.trc.value = fieldNS (readX t s))
      ∧ (s.cfg.implS = true → fieldS s'.trc.value = fieldS (readX t s))
      ∧ (s.cfg.implRL = true → fieldRL s'.trc.value = fieldRL (readX t s))

/-- R97 with G4 (PRESUMED, log 5): the zero register as source stores 0. -/
def Obligations.MsrFromTheZeroRegisterStoresZero : Prop :=
  ∀ s : State, AccessPermitted s.cfg s.env .write → s.env.traceUnitIdle = true →
    ∃ s', exec (.msrTrciteedcr 31#5) s = .next s'
      ∧ s'.trc = { value := 0#64, settledLo := true, settledHi := true } ∧ s'.x = s.x

/-- R99: a permitted write while the trace unit is not Idle ends in the model's fault, whatever the value written. The
fault is the spec's own choice for a CONSTRAINED UNPREDICTABLE write (D11, log 12). -/
def Obligations.MsrWhileNotIdleFaults : Prop :=
  ∀ (t : RegNum) (s : State), AccessPermitted s.cfg s.env .write → s.env.traceUnitIdle = false →
    exec (.msrTrciteedcr t) s = .fault .cuWriteNotIdle

/-- R62: a read accessor after a write accessor, with no other agent between, returns `Stored` of the written value
(the order of a PE's own accesses is the spec's own choice D14, log 1). -/
def Obligations.ReadAfterWriteReturnsStored : Prop :=
  ∀ (t u : RegNum) (s : State), AccessPermitted s.cfg s.env .write → AccessPermitted s.cfg s.env .read →
    s.env.traceUnitIdle = true → u ≠ 31#5 →
      ∃ s₁ s₂, exec (.msrTrciteedcr t) s = .next s₁ ∧ exec (.mrsTrciteedcr u) s₁ = .next s₂
        ∧ readX u s₂ = stored s.cfg (readX t s)

/-- R103 (c): on a settled register, writing back the value read leaves the register unchanged. -/
def Obligations.WritingBackTheValueReadChangesNothing : Prop :=
  ∀ (t : RegNum) (s : State), AccessPermitted s.cfg s.env .read → AccessPermitted s.cfg s.env .write →
    s.env.traceUnitIdle = true → TrcOk s.cfg s.trc → s.trc.settledLo = true → s.trc.settledHi = true → t ≠ 31#5 →
      ∃ s₁ s₂, exec (.mrsTrciteedcr t) s = .next s₁ ∧ exec (.msrTrciteedcr t) s₁ = .next s₂ ∧ s₂.trc = s.trc

/-- R59: two reads of a settled register with nothing between return the same value. -/
def Obligations.SettledReadsAgree : Prop :=
  ∀ (t u : RegNum) (s : State), AccessPermitted s.cfg s.env .read → s.trc.settledLo = true → s.trc.settledHi = true →
    t ≠ 31#5 → u ≠ 31#5 → t ≠ u →
      ∃ s₁ s₂, exec (.mrsTrciteedcr t) s = .next s₁ ∧ exec (.mrsTrciteedcr u) s₁ = .next s₂
        ∧ readX t s₂ = readX u s₂

/-! ## The external debugger -/

/-- R53, R55: an external read of the whole word returns the low half of the view where admitted, a free value where
not, and changes no state of the spec. Admission is an open predicate (log 13). -/
def Obligations.ExternalReadStep : Prop :=
  ∀ (s : State) (a : ExtAccess) (rest : List Event), s.agenda = .extRead a :: rest →
    a.offset = s.cfg.extOffset → a.bits = 32 →
      step s = .next { s with
        agenda := rest
        draws := s.draws + 1
        extData := some (if Config.extAccessOk s.trc s.env .read = true then (viewNow s.trc s).extractLsb' 0 32
          else Config.notAdmittedData s.draws) }

/-- R54, R55: an admitted external write of the whole word, while the trace unit is Idle, writes and settles the low half
as `Stored` would and leaves the high half and its flag; while it is not Idle it faults; one not admitted does nothing.
The fault is D11 (log 12), shared storage and admission D13 (log 13), the contents kept visible D15 (log 14). -/
def Obligations.ExternalWriteStep : Prop :=
  ∀ (s : State) (a : ExtAccess) (w : HalfWord) (rest : List Event), s.agenda = .extWrite a w :: rest →
    a.offset = s.cfg.extOffset → a.bits = 32 →
      if Config.extAccessOk s.trc s.env .write = true then
        if s.env.traceUnitIdle = true then
          ∃ s', step s = .next s'
            ∧ s'.trc.value.extractLsb' 32 32 = s.trc.value.extractLsb' 32 32
            ∧ s'.trc.settledHi = s.trc.settledHi ∧ s'.trc.settledLo = true
            ∧ (∀ j, j < 32 → s'.trc.value.getLsbD j = (writableAt s.cfg j && w.getLsbD j))
            ∧ s' = { s with agenda := rest, trc := s'.trc, visible := s.trc :: s.visible }
        else step s = .fault .cuWriteNotIdle
      else step s = .next { s with agenda := rest }

/-- R57: an external access of any other shape is refused by name (the spec's own choice D19, log 13). -/
def Obligations.OtherExternalShapesAreRefused : Prop :=
  ∀ (s : State) (a : ExtAccess) (w : HalfWord) (rest : List Event), ¬ (a.offset = s.cfg.extOffset ∧ a.bits = 32) →
    (s.agenda = .extRead a :: rest → step s = .refused (.externalShape a))
      ∧ (s.agenda = .extWrite a w :: rest → step s = .refused (.externalShape a))

/-- R52: the two names denote the same storage: what an admitted external write leaves is what a read accessor then
returns in bits [31:0], and what a write accessor leaves is what an external read then sees (the spec's own reading
D13, log 13). -/
def Obligations.BothViewsShareTheLowHalf : Prop :=
  ∀ (s : State) (w : HalfWord) (t u : RegNum), s.env.traceUnitIdle = true →
    AccessPermitted s.cfg s.env .read → AccessPermitted s.cfg s.env .write → t ≠ 31#5 →
      (∃ s₁ s₂, extWriteAdmitted w s = .next s₁ ∧ exec (.mrsTrciteedcr t) s₁ = .next s₂
          ∧ ∀ j, j < 32 → (readX t s₂).getLsbD j = (writableAt s.cfg j && w.getLsbD j))
        ∧ (∃ s₁, exec (.msrTrciteedcr u) s = .next s₁
          ∧ (viewNow s₁.trc s₁).extractLsb' 0 32 = (stored s.cfg (readX u s)).extractLsb' 0 32)

/-! ## The trace unit -/

/-- R31: while `SelfHostedTraceEnabled()` is TRUE the decision does not depend on the register, whatever it holds; and
"ignored" removes the fields' effect, not their storage: an accessor does the same whatever the function returns. The
first clause leans on the open decision of log 15, whose last argument, the number of the reading step, is the model's
(DESIGN CHOICE). Each clause compares two runs with the same draw counters, so a read of an unsettled register agrees in
the second only by the counters of log 7 (DESIGN CHOICE, unsafe for such a claim). -/
def Obligations.SelfHostedTraceIgnoresTheFields : Prop :=
  (∀ (s : State) (r : Trc) (vis : List Trc) (ss : SecurityState) (el : EL) (rest : List Event),
    s.env.selfHostedTraceEnabled = true → s.agenda = .traceRead ss el :: rest →
      ∃ s₁ s₂, step s = .next s₁ ∧ step { s with trc := r, visible := vis } = .next s₂
        ∧ s₂.traceDecision = s₁.traceDecision ∧ s₂.trc = r)
    ∧ (∀ (i : Instr) (s : State) (b : Bool),
      exec i { s with env := { s.env with selfHostedTraceEnabled := b } }
        = (match exec i s with
            | .next s' => .next { s' with env := { s.env with selfHostedTraceEnabled := b } }
            | .fault f => .fault f
            | .refused r => .refused r))

/-- R32, R33: without self-hosted trace and with every write synchronised, the decision is "prohibited" unless every
participating bit (DEDUCED at EL3 and in Realm state, log 23) is a field and reads as 1, and then it is what the open
function of ITO says (its last argument DESIGN CHOICE, log 15). -/
def Obligations.TraceDecisionOnASyncedRegister : Prop :=
  ∀ (s : State) (ss : SecurityState) (el : EL) (rest : List Event),
    s.env.selfHostedTraceEnabled = false → TraceSynced s → s.agenda = .traceRead ss el :: rest →
      step s = .next { s with
        agenda := rest
        draws := s.draws + 1
        traceDecision := some
          ((participants s.cfg ss el).all (fun j => fieldAt s.cfg j && (viewNow s.trc s).getLsbD j)
            && Config.itoGate s.env.trcconfigrITO ss el s.draws) }

/-- R66: before `TraceSync` the decision of R32 and R33 is made on the register's contents or on contents from before a
write that no `TraceSync` has followed (D15, log 14); the trace unit writes neither. Which bits take part is DEDUCED at
EL3 and in Realm state (log 23, unsafe if wrong); that the open function of ITO takes the number of the reading step is
the model's (DESIGN CHOICE, log 15). -/
def Obligations.TraceUnitSeesOldOrNew : Prop :=
  ∀ (s : State) (ss : SecurityState) (el : EL) (rest : List Event),
    s.env.selfHostedTraceEnabled = false → s.agenda = .traceRead ss el :: rest →
      ∃ s', step s = .next s' ∧ s'.trc = s.trc ∧ s'.visible = s.visible
        ∧ ∃ r, (r = s.trc ∨ r ∈ s.visible) ∧
          s'.traceDecision = some
            ((participants s.cfg ss el).all (fun j => fieldAt s.cfg j && (viewNow r s).getLsbD j)
              && Config.itoGate s.env.trcconfigrITO ss el s.draws)

/-- spec/95 P7: after the zero register is written and `TraceSync` has come, Instrumentation trace is prohibited at every
place while `SelfHostedTraceEnabled()` is FALSE. The zero register is PRESUMED (G4, log 5), `TraceSync` D15 (log 14). -/
def Obligations.WritingZeroProhibitsTraceEverywhere : Prop :=
  ∀ (s : State) (ss : SecurityState) (el : EL), AccessPermitted s.cfg s.env .write → s.env.traceUnitIdle = true →
    s.env.selfHostedTraceEnabled = false →
      ∃ s₁ s₂ s₃, exec (.msrTrciteedcr 31#5) s = .next s₁
        ∧ step { s₁ with agenda := [.traceSync, .traceRead ss el] } = .next s₂
        ∧ step s₂ = .next s₃ ∧ s₃.traceDecision = some false

/-- R66: `TraceSync` leaves the trace unit only the new contents to see, and changes nothing else (the spec's own choice
D15, log 14). -/
def Obligations.TraceSyncStep : Prop :=
  ∀ (s : State) (rest : List Event), s.agenda = .traceSync :: rest →
    step s = .next { s with agenda := rest, visible := [] }

/-! ## Reset, and the machine as a whole -/

/-- R151: the reset step unsettles both halves and stores 0; nothing else of the spec's state is reset (the
spec's own choice D10, log 21). The model counts it (log 7). -/
def Obligations.ResetStepUnsettlesTheRegister : Prop :=
  ∀ (s : State) (rest : List Event), s.agenda = .reset :: rest →
    step s = .next { s with
      agenda := rest
      trc := { value := 0#64, settledLo := false, settledHi := false }
      resets := s.resets + 1 }

/-- The state after reset meets the invariant, with the register unsettled and nothing pending (R151). The
configuration and inputs there are the model's (DESIGN CHOICE, log 2, log 3). -/
def Obligations.ResetStateMeetsTheInvariant : Prop :=
  StateInv State.reset ∧ State.reset.trc.settledLo = false ∧ State.reset.trc.settledHi = false
    ∧ State.reset.pe = .completed ∧ TraceSynced State.reset

/-- R30, R43, R120: every step of every agent keeps the invariant: nothing stored outside WRITABLE_MASK, now or in what
the trace unit may still see, a high half settled only with the low half, unsettled halves stored as 0, legal
outcomes. The storage mask is D8 (log 8), the unsettled halves D10 (log 21), what stays visible D15 (log 14). -/
def Obligations.StepKeepsStateInv : Prop :=
  ∀ s s' : State, StateInv s → step s = .next s' → StateInv s'

/-- R9: the configuration is fixed: no step of any agent writes it. It stands in the state by the model's choice
(log 2). -/
def Obligations.StepKeepsTheConfiguration : Prop :=
  ∀ s s' : State, step s = .next s' → s'.cfg = s.cfg

/-- R18, R42: only a reset, an admitted external write of the whole word while Idle, and a permitted write accessor while
Idle change the register or its flags. The agents' steps as events are the model's (log 1); Idle is D11 (log 12), the
admission and shape of an external write D13, D19 (log 13). -/
def Obligations.OnlyWritersChangeTheRegister : Prop :=
  ∀ s s' : State, step s = .next s' → s'.trc ≠ s.trc →
    ∃ e rest, s.agenda = e :: rest ∧
      (e = .reset
        ∨ (∃ a w, e = .extWrite a w ∧ a.offset = s.cfg.extOffset ∧ a.bits = 32
            ∧ Config.extAccessOk s.trc s.env .write = true ∧ s.env.traceUnitIdle = true)
        ∨ (∃ t, e = .fetch (encode (.msrTrciteedcr t)) ∧ s.pe = .completed
            ∧ AccessPermitted s.cfg s.env .write ∧ s.env.traceUnitIdle = true))

/-- R42: only a permitted read accessor with `t` not 31 and a step of the enclosing machine or its hooks change a
general-purpose register, and the read accessor changes `x[t]` alone. The zero register is G4 (PRESUMED, log 5), the
enclosing machine's steps as events the model's (DESIGN CHOICE, log 1, log 4). -/
def Obligations.OnlyReadsAndTheEnclosingMachineChangeX : Prop :=
  ∀ s s' : State, step s = .next s' → s'.x ≠ s.x →
    ∃ e rest, s.agenda = e :: rest ∧
      ((∃ t, e = .fetch (encode (.mrsTrciteedcr t)) ∧ t ≠ 31#5 ∧ s.pe = .completed
          ∧ AccessPermitted s.cfg s.env .read ∧ ∀ u, u ≠ t → readX u s' = readX u s)
        ∨ (∃ env x, s'.x = x ∧ (e = .enclosing env x ∨ e = .takeUndefined env x ∨ e = .takeSystemAccessTrap env x
            ∨ e = .resumeFromHalt env x)))

/-- R37: the inputs are written by no rule of the spec: only a step of the enclosing machine or its hooks changes one
(those steps as events of the agenda: DESIGN CHOICE, log 1, log 4). -/
def Obligations.OnlyTheEnclosingMachineChangesInputs : Prop :=
  ∀ s s' : State, step s = .next s' → s'.env ≠ s.env →
    ∃ env x rest, s'.env = env ∧
      (s.agenda = .enclosing env x :: rest ∨ s.agenda = .takeUndefined env x :: rest
        ∨ s.agenda = .takeSystemAccessTrap env x :: rest ∨ s.agenda = .resumeFromHalt env x :: rest)

/-- R43, R152: a settled half stays settled until a reset (settledness is the spec's own choice D10, log 21). -/
def Obligations.SettledUntilReset : Prop :=
  ∀ s s' : State, step s = .next s' → (∀ rest, s.agenda ≠ .reset :: rest) →
    (s.trc.settledLo = true → s'.trc.settledLo = true) ∧ (s.trc.settledHi = true → s'.trc.settledHi = true)

/-- R55: the premise NoExternalWrites is kept by every step, and under it only a reset or a write accessor changes the
register. -/
def Obligations.NoExternalWritesIsKept : Prop :=
  ∀ s s' : State, NoExternalWrites s → step s = .next s' →
    NoExternalWrites s' ∧ (s'.trc ≠ s.trc → ∃ rest, s.agenda = .reset :: rest
      ∨ ∃ t, s.agenda = .fetch (encode (.msrTrciteedcr t)) :: rest)
end

