-- ==== Sys2Proof/Laws/State.lean ====
section
/-! SUPPORT. One lemma per field per update of the shared operations, so that no proof unfolds a record update. -/

namespace Sys2Proof.Machine

theorem endStep_eq (o : PEOutcome) (s : State) : endStep o s = { s with pe := o } := rfl
@[simp] theorem endStep_cfg (o : PEOutcome) (s : State) : (endStep o s).cfg = s.cfg := rfl
@[simp] theorem endStep_env (o : PEOutcome) (s : State) : (endStep o s).env = s.env := rfl
@[simp] theorem endStep_x (o : PEOutcome) (s : State) : (endStep o s).x = s.x := rfl
@[simp] theorem endStep_trc (o : PEOutcome) (s : State) : (endStep o s).trc = s.trc := rfl
@[simp] theorem endStep_visible (o : PEOutcome) (s : State) : (endStep o s).visible = s.visible := rfl
@[simp] theorem endStep_pe (o : PEOutcome) (s : State) : (endStep o s).pe = o := rfl
@[simp] theorem endStep_extData (o : PEOutcome) (s : State) : (endStep o s).extData = s.extData := rfl
@[simp] theorem endStep_traceDecision (o : PEOutcome) (s : State) :
    (endStep o s).traceDecision = s.traceDecision := rfl
@[simp] theorem endStep_resets (o : PEOutcome) (s : State) : (endStep o s).resets = s.resets := rfl
@[simp] theorem endStep_draws (o : PEOutcome) (s : State) : (endStep o s).draws = s.draws := rfl
@[simp] theorem endStep_agenda (o : PEOutcome) (s : State) : (endStep o s).agenda = s.agenda := rfl

@[simp] theorem returnFromHook_cfg (e : Env) (x : XFile) (s : State) : (returnFromHook e x s).cfg = s.cfg := rfl
@[simp] theorem returnFromHook_env (e : Env) (x : XFile) (s : State) : (returnFromHook e x s).env = e := rfl
@[simp] theorem returnFromHook_x (e : Env) (x : XFile) (s : State) : (returnFromHook e x s).x = x := rfl
@[simp] theorem returnFromHook_trc (e : Env) (x : XFile) (s : State) : (returnFromHook e x s).trc = s.trc := rfl
@[simp] theorem returnFromHook_visible (e : Env) (x : XFile) (s : State) :
    (returnFromHook e x s).visible = s.visible := rfl
@[simp] theorem returnFromHook_pe (e : Env) (x : XFile) (s : State) :
    (returnFromHook e x s).pe = .completed := rfl
@[simp] theorem returnFromHook_extData (e : Env) (x : XFile) (s : State) :
    (returnFromHook e x s).extData = s.extData := rfl
@[simp] theorem returnFromHook_traceDecision (e : Env) (x : XFile) (s : State) :
    (returnFromHook e x s).traceDecision = s.traceDecision := rfl
@[simp] theorem returnFromHook_resets (e : Env) (x : XFile) (s : State) :
    (returnFromHook e x s).resets = s.resets := rfl
@[simp] theorem returnFromHook_draws (e : Env) (x : XFile) (s : State) :
    (returnFromHook e x s).draws = s.draws := rfl
@[simp] theorem returnFromHook_agenda (e : Env) (x : XFile) (s : State) :
    (returnFromHook e x s).agenda = s.agenda := rfl

@[simp] theorem drawn_cfg (s : State) : (drawn s).cfg = s.cfg := rfl
@[simp] theorem drawn_env (s : State) : (drawn s).env = s.env := rfl
@[simp] theorem drawn_x (s : State) : (drawn s).x = s.x := rfl
@[simp] theorem drawn_trc (s : State) : (drawn s).trc = s.trc := rfl
@[simp] theorem drawn_visible (s : State) : (drawn s).visible = s.visible := rfl
@[simp] theorem drawn_pe (s : State) : (drawn s).pe = s.pe := rfl
@[simp] theorem drawn_extData (s : State) : (drawn s).extData = s.extData := rfl
@[simp] theorem drawn_traceDecision (s : State) : (drawn s).traceDecision = s.traceDecision := rfl
@[simp] theorem drawn_resets (s : State) : (drawn s).resets = s.resets := rfl
@[simp] theorem drawn_draws (s : State) : (drawn s).draws = s.draws + 1 := rfl
@[simp] theorem drawn_agenda (s : State) : (drawn s).agenda = s.agenda := rfl

@[simp] theorem writeX_cfg (t : RegNum) (v : Word) (s : State) : (writeX t v s).cfg = s.cfg := rfl
@[simp] theorem writeX_env (t : RegNum) (v : Word) (s : State) : (writeX t v s).env = s.env := rfl
@[simp] theorem writeX_x (t : RegNum) (v : Word) (s : State) : (writeX t v s).x = XFile.put s.x t v := rfl
@[simp] theorem writeX_trc (t : RegNum) (v : Word) (s : State) : (writeX t v s).trc = s.trc := rfl
@[simp] theorem writeX_visible (t : RegNum) (v : Word) (s : State) : (writeX t v s).visible = s.visible := rfl
@[simp] theorem writeX_pe (t : RegNum) (v : Word) (s : State) : (writeX t v s).pe = s.pe := rfl
@[simp] theorem writeX_extData (t : RegNum) (v : Word) (s : State) : (writeX t v s).extData = s.extData := rfl
@[simp] theorem writeX_traceDecision (t : RegNum) (v : Word) (s : State) :
    (writeX t v s).traceDecision = s.traceDecision := rfl
@[simp] theorem writeX_resets (t : RegNum) (v : Word) (s : State) : (writeX t v s).resets = s.resets := rfl
@[simp] theorem writeX_draws (t : RegNum) (v : Word) (s : State) : (writeX t v s).draws = s.draws := rfl
@[simp] theorem writeX_agenda (t : RegNum) (v : Word) (s : State) : (writeX t v s).agenda = s.agenda := rfl

@[simp] theorem storeTrc_cfg (r : Trc) (s : State) : (storeTrc r s).cfg = s.cfg := rfl
@[simp] theorem storeTrc_env (r : Trc) (s : State) : (storeTrc r s).env = s.env := rfl
@[simp] theorem storeTrc_x (r : Trc) (s : State) : (storeTrc r s).x = s.x := rfl
@[simp] theorem storeTrc_trc (r : Trc) (s : State) : (storeTrc r s).trc = r := rfl
@[simp] theorem storeTrc_visible (r : Trc) (s : State) : (storeTrc r s).visible = s.trc :: s.visible := rfl
@[simp] theorem storeTrc_pe (r : Trc) (s : State) : (storeTrc r s).pe = s.pe := rfl
@[simp] theorem storeTrc_extData (r : Trc) (s : State) : (storeTrc r s).extData = s.extData := rfl
@[simp] theorem storeTrc_traceDecision (r : Trc) (s : State) :
    (storeTrc r s).traceDecision = s.traceDecision := rfl
@[simp] theorem storeTrc_resets (r : Trc) (s : State) : (storeTrc r s).resets = s.resets := rfl
@[simp] theorem storeTrc_draws (r : Trc) (s : State) : (storeTrc r s).draws = s.draws := rfl
@[simp] theorem storeTrc_agenda (r : Trc) (s : State) : (storeTrc r s).agenda = s.agenda := rfl

/-- A read of a register depends on the file alone. -/
theorem readX_eq (t : RegNum) (s : State) : readX t s = XFile.get s.x t := rfl

@[simp] theorem Trc.write_value (c : Config) (v : Word) : (Trc.write c v).value = stored c v := rfl
@[simp] theorem Trc.write_settledLo (c : Config) (v : Word) : (Trc.write c v).settledLo = true := rfl
@[simp] theorem Trc.write_settledHi (c : Config) (v : Word) : (Trc.write c v).settledHi = true := rfl
@[simp] theorem Trc.writeLow_settledLo (c : Config) (r : Trc) (w : HalfWord) :
    (Trc.writeLow c r w).settledLo = true := rfl
@[simp] theorem Trc.writeLow_settledHi (c : Config) (r : Trc) (w : HalfWord) :
    (Trc.writeLow c r w).settledHi = r.settledHi := rfl

end Sys2Proof.Machine
end

