-- ==== Sys2Proof/Laws/Ops.lean ====
section
/-! SUPPORT. One lemma per shared operation that says everything it can do, for later proofs to cite. -/

namespace Sys2Proof.Machine

/-- Reading back the register written; register 31 reads as zero (R34). -/
theorem XFile.get_put_self (x : XFile) (t : RegNum) (v : Word) :
    XFile.get (XFile.put x t v) t = if t.toNat < 31 then v else 0#64 := by
  unfold XFile.get XFile.put
  split <;> simp

/-- A write of one register leaves every other alone. -/
theorem XFile.get_put_of_ne (x : XFile) {t u : RegNum} (v : Word) (h : u ≠ t) :
    XFile.get (XFile.put x t v) u = XFile.get x u := by
  have hne : t.toNat ≠ u.toNat := fun e => h (BitVec.eq_of_toNat_eq e.symm)
  unfold XFile.get XFile.put
  by_cases ht : t.toNat < 31
  · by_cases hu : u.toNat < 31
    · simp [ht, hu, hne]
    · simp [hu]
  · simp [ht]

/-- A write of register 31 is discarded (R34). -/
theorem XFile.put_zeroRegister (x : XFile) (v : Word) : XFile.put x 31#5 v = x := by
  simp [XFile.put]

/-- Everything an accessor's step can do: its transfer after both checks, or the outcome of the first that fails (R90). -/
theorem accessorStep_cases (dir : Dir) (t : RegNum) (f : State → Host.Outcome State Fault Refusal) (s : State) :
    (gate s.cfg s.env dir = .proceed ∧ accessorStep dir t f s = f s)
      ∨ (gate s.cfg s.env dir = .undefined ∧ accessorStep dir t f s = .next (endStep .undefined s))
      ∨ (∃ el, gate s.cfg s.env dir = .trap el
          ∧ accessorStep dir t f s = .next (endStep (.systemAccessTrap el trapCode dir t) s))
      ∨ (gate s.cfg s.env dir = .halt ∧ accessorStep dir t f s = .next (endStep (.halt .softwareAccess) s)) := by
  unfold accessorStep
  cases h : gate s.cfg s.env dir <;> simp

/-- The EL3 arm ends the step: Undefined or a trap to EL3 (R93 arm 5, R94 arm 3). -/
theorem el3Arm_cases (e : Env) : el3Arm e = .undefined ∨ el3Arm e = .trap .el3 := by
  unfold el3Arm
  split <;> simp

/-- Everything the gate can say: proceed only when both checks do. -/
theorem gate_proceed_iff_both (c : Config) (e : Env) (dir : Dir) :
    gate c e dir = .proceed ↔ presenceCheck c = .proceed ∧ accessCheck c e dir = .proceed := by
  unfold gate
  split <;> cases presenceCheck c <;> cases accessCheck c e dir <;> simp [Check.andThen]

/-- Everything a fetch can give (R73, R123). -/
theorem fetch_cases (w : InsnWord) (s : State) :
    (s.pe ≠ .completed ∧ fetch w s = .stop (.peNotRunning s.pe))
      ∨ (s.pe = .completed ∧ ∃ i, decode w = .ok i ∧ fetch w s = .instr i)
      ∨ (s.pe = .completed ∧ ∃ a b c d e, decode w = .otherRegister a b c d e
          ∧ fetch w s = .stop (.sysregNotInSpec a b c d e))
      ∨ (s.pe = .completed ∧ decode w = .notSysregMove ∧ fetch w s = .stop (.notSysregMove w)) := by
  unfold fetch
  by_cases h : s.pe = .completed
  · cases hd : decode w <;> simp [h]
  · simp [h]

/-- What the trace unit sees is the register or something still visible (R66). -/
theorem traceContents_mem (s : State) : traceContents s ∈ s.trc :: s.visible := by
  unfold traceContents
  have h : Config.pickVisible s.draws % (s.visible.length + 1) < (s.trc :: s.visible).length := by
    simpa using Nat.mod_lt _ (Nat.succ_pos _)
  rw [List.getD_eq_getElem _ _ h]
  exact List.getElem_mem h

/-- With no write waiting for its `TraceSync` the trace unit sees the register (R66). -/
theorem traceContents_synced (s : State) (h : TraceSynced s) : traceContents s = s.trc := by
  simp [traceContents, TraceSynced] at *
  simp [h, Nat.mod_one]

/-- A step is the first scheduled event, taken off the agenda (R62). -/
theorem step_cons {s : State} {e : Event} {rest : List Event} (h : s.agenda = e :: rest) :
    step s = runEvent e { s with agenda := rest } := by
  simp [step, h]

/-- With nothing scheduled nothing changes. -/
theorem step_nil {s : State} (h : s.agenda = []) : step s = .next s := by
  simp [step, h]

/-- A step that gives a next state found nothing scheduled, or ran the first event. -/
theorem step_next_cases {s s' : State} (h : step s = .next s') :
    (s.agenda = [] ∧ s' = s)
      ∨ ∃ e rest, s.agenda = e :: rest ∧ runEvent e { s with agenda := rest } = .next s' := by
  cases ha : s.agenda with
  | nil => rw [step_nil ha] at h; exact .inl ⟨rfl, by cases h; rfl⟩
  | cons e rest => exact .inr ⟨e, rest, rfl, by rw [← step_cons ha]; exact h⟩

/-- What a write stores lies in WRITABLE_MASK (R30). -/
theorem stored_within (c : Config) (v : Word) : stored c v &&& ~~~ writableMask c = 0#64 := by
  unfold stored
  ext i
  simp

/-- What a reader sees lies in WRITABLE_MASK (R43). -/
theorem view_within (c : Config) (r : Trc) (dHi dLo : HalfWord) :
    view c r dHi dLo &&& ~~~ writableMask c = 0#64 := by
  unfold view
  ext i
  simp

end Sys2Proof.Machine
end

