-- ==== Sys2Proof/Laws/Exec.lean ====
section
/-! SUPPORT. What the checks and an accessor can do, said once. -/

namespace Sys2Proof.Machine

/-- The access check lets an access proceed exactly when no arm of its level holds (R92 to R95). -/
theorem accessCheck_proceed_iff (c : Config) (e : Env) (d : Dir) :
    accessCheck c e d = .proceed ↔ ChecksPass c e d := by
  have key : ∀ p : Prop, [Decidable p] → ∀ a b : Check,
      ((if p then a else b) = .proceed ↔ (p ∧ a = .proceed) ∨ (¬ p ∧ b = .proceed)) := by
    intro p _ a b; split_ifs <;> simp_all
  unfold accessCheck ChecksPass
  cases h : e.pstateEL <;> simp [checkEL1, checkEL2, checkEL3, undefPriority, el3Traps, el3Arm, fineGrainedTraps,
    haltCondition, EL3Trap, FineGrainedTrap, HaltOnAccess, key]
  · generalize (e.cptrEL3TTA = 1#1) = A
    generalize (e.cpacrEL1TTA = 1#1) = B
    generalize (e.cptrEL2TTA = 1#1) = C
    generalize (e.scrEL3FGTEn = 1#1) = D
    generalize (fineGrainedControl e d = 1#1) = E
    cases c.haveEL3 <;> cases e.el3SDDUndefPriority <;> cases e.el2Enabled <;> cases c.featFGT <;> simp <;> tauto
  · generalize (e.cptrEL3TTA = 1#1) = A
    generalize (e.cptrEL2TTA = 1#1) = C
    cases c.haveEL3 <;> cases e.el3SDDUndefPriority <;> simp <;> tauto

/-- No check traps to EL0 (R122). -/
theorem accessCheck_trap_ne_el0 {c : Config} {e : Env} {d : Dir} {el : EL} (h : accessCheck c e d = .trap el) :
    el ≠ .el0 := by
  unfold accessCheck at h
  cases hp : e.pstateEL <;> rw [hp] at h <;> simp only [checkEL1, checkEL2, checkEL3, el3Arm] at h
  · cases h
  all_goals split_ifs at h <;> cases h <;> decide

/-- Presence as a proposition (R91). -/
theorem present_iff (c : Config) : present c = true ↔ RegisterPresent c := by
  simp [present, RegisterPresent, and_assoc]

/-- With the register present only the access check decides (R90). -/
theorem gate_of_present {c : Config} (e : Env) (d : Dir) (h : RegisterPresent c) : gate c e d = accessCheck c e d := by
  simp only [gate, presenceCheck, (present_iff c).2 h, if_true]
  cases accessCheck c e d <;> simp [Check.andThen]

/-- The gate lets an access proceed exactly when it is permitted (R90). -/
theorem gate_proceed_iff (c : Config) (e : Env) (d : Dir) : gate c e d = .proceed ↔ AccessPermitted c e d := by
  rw [gate_proceed_iff_both, accessCheck_proceed_iff, AccessPermitted, ← present_iff, presenceCheck]
  cases present c <;> simp

/-- A trap of the gate is the access check's. -/
theorem gate_trap {c : Config} {e : Env} {d : Dir} {el : EL} (h : gate c e d = .trap el) :
    accessCheck c e d = .trap el := by
  revert h
  unfold gate presenceCheck
  split <;> split <;> cases accessCheck c e d <;> simp [Check.andThen]

/-- A halt of the gate is the access check's. -/
theorem gate_halt {c : Config} {e : Env} {d : Dir} (h : gate c e d = .halt) : accessCheck c e d = .halt := by
  revert h
  unfold gate presenceCheck
  split <;> split <;> cases accessCheck c e d <;> simp [Check.andThen]

/-- What `exec` answers for each thing but proceed that the gate can say (R90, R136). -/
theorem exec_of_gate (i : Instr) (s : State) :
    (gate s.cfg s.env i.toMove.dir = .undefined → exec i s = .next (endStep .undefined s))
      ∧ (∀ el, gate s.cfg s.env i.toMove.dir = .trap el →
          exec i s = .next (endStep (.systemAccessTrap el trapCode i.toMove.dir i.toMove.t) s))
      ∧ (gate s.cfg s.env i.toMove.dir = .halt → exec i s = .next (endStep (.halt .softwareAccess) s)) := by
  cases i <;> simp only [exec, Instr.toMove, execMrsTrciteedcr, execMsrTrciteedcr, accessorStep] <;>
    refine ⟨fun h => ?_, fun el h => ?_, fun h => ?_⟩ <;> simp [h]

/-- What `exec` answers for a permitted read (R96). -/
theorem exec_mrs_of_permitted {t : RegNum} {s : State} (h : AccessPermitted s.cfg s.env .read) :
    exec (.mrsTrciteedcr t) s = .next (endStep .completed (drawn (writeX t (viewNow s.trc s) s))) := by
  simp [exec, execMrsTrciteedcr, accessorStep, (gate_proceed_iff _ _ _).2 h]

/-- What `exec` answers for a permitted write (R97, R99). -/
theorem exec_msr_of_permitted {t : RegNum} {s : State} (h : AccessPermitted s.cfg s.env .write) :
    exec (.msrTrciteedcr t) s
      = if s.env.traceUnitIdle then
          .next (endStep .completed (storeTrc (Trc.write s.cfg (readX t s)) s))
        else .fault .cuWriteNotIdle := by
  simp only [exec, execMsrTrciteedcr, accessorStep, (gate_proceed_iff _ _ _).2 h]

/-- Everything `exec` can do: an outcome other than Completed with nothing else changed, a completed read, a completed
write, or the fault of a write while the trace unit is not Idle (R120). -/
theorem exec_cases (i : Instr) (s : State) :
    (¬ AccessPermitted s.cfg s.env i.toMove.dir
        ∧ ∃ o, o ≠ .completed ∧ outcomeOk o = true ∧ exec i s = .next (endStep o s))
      ∨ (∃ t, i = .mrsTrciteedcr t ∧ AccessPermitted s.cfg s.env .read
          ∧ exec i s = .next (endStep .completed (drawn (writeX t (viewNow s.trc s) s))))
      ∨ (∃ t, i = .msrTrciteedcr t ∧ AccessPermitted s.cfg s.env .write ∧ s.env.traceUnitIdle = true
          ∧ exec i s = .next (endStep .completed (storeTrc (Trc.write s.cfg (readX t s)) s)))
      ∨ (∃ t, i = .msrTrciteedcr t ∧ AccessPermitted s.cfg s.env .write ∧ s.env.traceUnitIdle = false
          ∧ exec i s = .fault .cuWriteNotIdle) := by
  obtain ⟨hUndefined, hTrap, hHalt⟩ := exec_of_gate i s
  rw [← gate_proceed_iff]
  cases hg : gate s.cfg s.env i.toMove.dir with
  | undefined => exact .inl ⟨by simp, _, by simp, rfl, hUndefined hg⟩
  | trap el =>
    refine .inl ⟨by simp, _, by simp, ?_, hTrap el hg⟩
    simpa [outcomeOk, trapCode] using accessCheck_trap_ne_el0 (gate_trap hg)
  | halt => exact .inl ⟨by simp, _, by simp, rfl, hHalt hg⟩
  | proceed =>
    rw [gate_proceed_iff] at hg
    cases i with
    | mrsTrciteedcr t => exact .inr (.inl ⟨t, rfl, hg, exec_mrs_of_permitted hg⟩)
    | msrTrciteedcr t =>
      have hx := exec_msr_of_permitted (t := t) (s := s) hg
      cases hi : s.env.traceUnitIdle with
      | true => exact .inr (.inr (.inl ⟨t, rfl, hg, rfl, by rw [hx]; simp [hi]⟩))
      | false => exact .inr (.inr (.inr ⟨t, rfl, hg, rfl, by rw [hx]; simp [hi]⟩))

end Sys2Proof.Machine
end

