-- ==== Sys2Proof/Laws/Masks.lean ====
section
/-! SUPPORT. The masks of R30, the view of R43 and the external write of R54, bit by bit, and the participating bits of
R32. -/

namespace Sys2Proof.Machine

/-- FIELD_MASK has a 1 exactly at the fields (R30). -/
theorem fieldMask_getLsbD (c : Config) {j : Nat} (hj : j < 64) : (fieldMask c).getLsbD j = fieldAt c j := by
  have h80 : ∀ j < 64, (0xFFFFFFFFFFFFFF80#64).getLsbD j = decide (7 ≤ j) := by decide
  have h40 : ∀ j < 64, (0x40#64).getLsbD j = decide (j = 6) := by decide
  have h20 : ∀ j < 64, (0x20#64).getLsbD j = decide (j = 5) := by decide
  have h10 : ∀ j < 64, (0x10#64).getLsbD j = decide (j = 4) := by decide
  have h08 : ∀ j < 64, (0x08#64).getLsbD j = decide (j = 3) := by decide
  have h04 : ∀ j < 64, (0x04#64).getLsbD j = decide (j = 2) := by decide
  have hif : ∀ (b : Bool) (v : Word), (if b then 0#64 else v).getLsbD j = (!b && v.getLsbD j) := by
    intro b v; cases b <;> simp
  simp only [fieldMask, res0Mask, BitVec.getLsbD_not, BitVec.getLsbD_or, hif, h80 j hj, h40 j hj, h20 j hj,
    h10 j hj, h08 j hj, h04 j hj]
  match j with
  | 0 | 1 | 2 | 3 | 4 | 5 | 6 => simp [fieldAt]
  | n + 7 => simp [fieldAt]

/-- WRITABLE_MASK has a 1 exactly at the writable bits (R30). -/
theorem writableMask_getLsbD (c : Config) {j : Nat} (hj : j < 64) :
    (writableMask c).getLsbD j = writableAt c j := by
  simp [writableMask, writableAt, fieldMask_getLsbD c hj]

/-- An external write changes the low half alone, and there only the writable bits (R54). -/
theorem Trc.writeLow_getLsbD (c : Config) (r : Trc) (w : HalfWord) (j : Nat) :
    (Trc.writeLow c r w).value.getLsbD j
      = if j < 32 then (writableAt c j && w.getLsbD j) else r.value.getLsbD j := by
  have hm : ∀ j < 64, (0xFFFFFFFF00000000#64).getLsbD j = decide (32 ≤ j) := by decide
  rcases Nat.lt_or_ge j 64 with h | h
  · simp only [Trc.writeLow, BitVec.getLsbD_or, BitVec.getLsbD_and, hm j h, BitVec.getLsbD_setWidth,
      BitVec.getLsbD_extractLsb', stored]
    rcases Nat.lt_or_ge j 32 with h3 | h3
    · rw [← writableMask_getLsbD c h]; simp [h, h3, Nat.not_le.2 h3, Bool.and_comm]
    · simp [h3, Nat.not_lt.2 h3]
  · rw [BitVec.getLsbD_of_ge _ j h, if_neg (by omega), BitVec.getLsbD_of_ge _ j h]

/-- A reader of settled contents within WRITABLE_MASK sees the stored value (R43). -/
theorem view_of_settled (c : Config) (r : Trc) (dHi dLo : HalfWord) (h : r.value &&& ~~~ writableMask c = 0#64)
    (hLo : r.settledLo = true) (hHi : r.settledHi = true) : view c r dHi dLo = r.value := by
  have halves : r.value.extractLsb' 32 32 ++ r.value.extractLsb' 0 32 = r.value := by
    apply BitVec.eq_of_getLsbD_eq
    intro i hi
    rw [BitVec.getLsbD_append]
    rcases Nat.lt_or_ge i 32 with h | h
    · simp [h]
    · simp [Nat.not_lt.2 h, show i - 32 < 32 by omega, Nat.add_sub_cancel' h]
  simp only [view, hLo, hHi, if_true, halves]
  apply BitVec.eq_of_getLsbD_eq
  intro i hi
  have := congrArg (fun v => v.getLsbD i) h
  simp [hi] at this
  simp [hi]; exact this

/-- What a write accessor leaves meets the register's invariant. -/
theorem trcOk_write (c : Config) (v : Word) : TrcOk c (Trc.write c v) :=
  ⟨stored_within c v, by simp, by simp, by simp⟩

/-- What an external write leaves meets the register's invariant. -/
theorem trcOk_writeLow (c : Config) (r : Trc) (w : HalfWord) (h : TrcOk c r) : TrcOk c (Trc.writeLow c r w) := by
  obtain ⟨hMask, _, _, hHi⟩ := h
  refine ⟨?_, by simp, by simp, fun e => ?_⟩
  · apply BitVec.eq_of_getLsbD_eq
    intro i hi
    have := congrArg (fun v => v.getLsbD i) hMask
    simp only [BitVec.getLsbD_and, BitVec.getLsbD_not, writableMask_getLsbD c hi, Trc.writeLow_getLsbD] at *
    split
    · cases writableAt c i <;> simp
    · simpa using this
  · rw [← hHi e]
    apply BitVec.eq_of_getLsbD_eq
    intro i hi
    simp [Trc.writeLow_getLsbD]

/-- `Reg_Permits` looks at the participating bits of R32, each as a field. -/
theorem regPermits_eq_all (c : Config) (v : Word) (ss : SecurityState) (el : EL) :
    regPermits c v ss el = (participants c ss el).all (fun j => fieldAt c j && v.getLsbD j) := by
  have key : ∀ (m : Word) (l : List Nat), (∀ j ∈ l, j < 64) → (∀ j, j < 64 → m.getLsbD j = decide (j ∈ l)) →
      (eff c v &&& m == m) = l.all (fun j => fieldAt c j && v.getLsbD j) := by
    intro m l hl hm
    rw [Bool.eq_iff_iff, beq_iff_eq, List.all_eq_true]
    constructor
    · intro h j hj
      have := congrArg (fun v => v.getLsbD j) h
      simp only [eff, BitVec.getLsbD_and, hm j (hl j hj), fieldMask_getLsbD c (hl j hj)] at this
      simp [hj] at this
      simp [this]
    · intro h
      apply BitVec.eq_of_getLsbD_eq
      intro j hj
      simp only [eff, BitVec.getLsbD_and, hm j hj, fieldMask_getLsbD c hj]
      by_cases hjl : j ∈ l
      · have := h j hjl
        simp at this
        simp [this]
      · simp [hjl]
  unfold regPermits
  cases el
  · cases ss <;> exact key _ [_, 0] (by dsimp [SecurityState.bit]; decide)
      (by dsimp [participating, securityBit, SecurityState.bit]; decide)
  · cases ss <;> exact key _ [_, 1] (by dsimp [SecurityState.bit]; decide)
      (by dsimp [participating, securityBit, SecurityState.bit]; decide)
  · cases ss <;> exact key _ [_, 2] (by dsimp [SecurityState.bit]; decide)
      (by dsimp [participating, securityBit, SecurityState.bit]; decide)
  · simp only [participating, participants]
    split <;> exact key _ _ (by decide) (by decide)

end Sys2Proof.Machine
end

