-- ==== Sys2Proof/Laws/PerInstr.lean ====
section
/-! SUPPORT. The family `Encoding`: what each instruction's syntax and its word say (R73, R75). -/

namespace Sys2Proof.Laws.Encoding

/-- The instruction is well formed, and its word lies on its row of the opcode table with `t` in bits 4:0. -/
def Statement (i : Instr) : Prop :=
  i.wellFormed = true
    ∧ encode i &&& 0xFFFFFFE0#32 = (match i.toMove.dir with | .read => 0xD5310220#32 | .write => 0xD5110220#32)
    ∧ (encode i).extractLsb' 0 5 = i.toMove.t

theorem mrsTrciteedcr (t : RegNum) : Statement (.mrsTrciteedcr t) := by
  unfold Statement
  revert t
  decide

theorem msrTrciteedcr (t : RegNum) : Statement (.msrTrciteedcr t) := by
  unfold Statement
  revert t
  decide

end Sys2Proof.Laws.Encoding
end

