-- ==== Sys2Proof/Laws/Step.lean ====
section
/-! SUPPORT. Everything a step of the machine can do, said once. -/

namespace Sys2Proof.Machine

/-- Everything a step that answers a next state did: nothing was scheduled, or the first event ran, and each kind of
event changed only what it names. -/
theorem step_cases {s s' : State} (h : step s = .next s') :
    (s' = s ∧ s.agenda = [])
      ∨ ∃ e rest, s.agenda = e :: rest ∧
        ((∃ w i, e = .fetch w ∧ s.pe = .completed ∧ decode w = .ok i ∧ exec i { s with agenda := rest } = .next s')
          ∨ (∃ a, e = .extRead a
              ∧ s' = { s with agenda := rest, draws := s.draws + 1, extData := s'.extData })
          ∨ (∃ a w, e = .extWrite a w ∧
              ((a.offset = s.cfg.extOffset ∧ a.bits = 32 ∧ Config.extAccessOk s.trc s.env .write = true
                  ∧ s.env.traceUnitIdle = true
                  ∧ s' = storeTrc (Trc.writeLow s.cfg s.trc w) { s with agenda := rest })
                ∨ s' = { s with agenda := rest }))
          ∨ (∃ ss el, e = .traceRead ss el
              ∧ s' = { s with agenda := rest, draws := s.draws + 1, traceDecision := s'.traceDecision })
          ∨ (e = .traceSync ∧ s' = { s with agenda := rest, visible := [] })
          ∨ (e = .reset ∧ s' = { s with agenda := rest, trc := Trc.reset, resets := s.resets + 1 })
          ∨ (∃ env x, (e = .enclosing env x ∨ e = .takeUndefined env x ∨ e = .takeSystemAccessTrap env x
                ∨ e = .resumeFromHalt env x)
              ∧ ∃ o, (o = s.pe ∨ o = .completed) ∧ s' = { s with agenda := rest, env := env, x := x, pe := o })) := by
  rcases step_next_cases h with ⟨hnil, rfl⟩ | ⟨e, rest, ha, hr⟩
  · exact .inl ⟨rfl, hnil⟩
  refine .inr ⟨e, rest, ha, ?_⟩
  cases e with
  | fetch w =>
    left
    simp only [runEvent] at hr
    rcases fetch_cases w { s with agenda := rest } with ⟨_, e⟩ | ⟨p, i, d, e⟩ | ⟨_, a, b, c, d, e', _, e⟩ | ⟨_, _, e⟩ <;>
      rw [e] at hr
    · cases hr
    · exact ⟨w, i, rfl, p, d, hr⟩
    · cases hr
    · cases hr
  | aarch32Access => cases hr
  | extRead a =>
    right; left
    simp only [runEvent, extRead] at hr
    split at hr
    · split at hr <;> cases hr <;> exact ⟨a, rfl, rfl⟩
    · cases hr
  | extWrite a w =>
    right; right; left
    refine ⟨a, w, rfl, ?_⟩
    simp only [runEvent, extWrite, extWriteAdmitted] at hr
    split at hr
    · rename_i hw
      simp [ExtAccess.wholeWord] at hw
      split at hr
      · rename_i ho
        split at hr
        · rename_i hi
          cases hr; exact .inl ⟨hw.1, hw.2, ho, hi, rfl⟩
        · cases hr
      · cases hr; exact .inr rfl
    · cases hr
  | traceRead ss el => right; right; right; left; cases hr; exact ⟨ss, el, rfl, rfl⟩
  | traceSync => right; right; right; right; left; cases hr; exact ⟨rfl, rfl⟩
  | reset => right; right; right; right; right; left; cases hr; exact ⟨rfl, rfl⟩
  | enclosing env x =>
    iterate 6 right
    cases hr; exact ⟨env, x, by simp, _, .inl rfl, rfl⟩
  | takeUndefined env x =>
    iterate 6 right
    simp only [runEvent, takeUndefined] at hr
    split at hr <;> cases hr
    exact ⟨env, x, by simp, _, .inr rfl, rfl⟩
  | takeSystemAccessTrap env x =>
    iterate 6 right
    simp only [runEvent, takeSystemAccessTrap] at hr
    split at hr <;> cases hr
    exact ⟨env, x, by simp, _, .inr rfl, rfl⟩
  | resumeFromHalt env x =>
    iterate 6 right
    simp only [runEvent, resumeFromHalt] at hr
    split at hr <;> cases hr
    exact ⟨env, x, by simp, _, .inr rfl, rfl⟩

end Sys2Proof.Machine
end

