-- ==== Sys2Proof/Machine/Syndrome.lean ====
section
/-! DEFINITION. The syndrome that the spec remembers for a trapped accessor (G8 in R122). PRESUMED and not normative: the
source does not say that a syndrome is built, and no step uses these definitions; they are what an enclosing machine that
follows G8 makes of the outcome `systemAccessTrap el code dir t` it is handed (log 24). -/

namespace Sys2Proof.Machine

/-- ISS of a trapped accessor by G8, 25 bits: a zero bits [24:22], Op0 [21:20], Op2 [19:17], Op1 [16:14], CRn [13:10],
Rt [9:5], CRm [4:1], Direction [0] with 1 = read. -/
def trapIss (m : SysMove) : BitVec 25 :=
  0#3 ++ m.op0 ++ m.op2 ++ m.op1 ++ m.crn ++ m.t ++ m.crm
    ++ (match m.dir with | .read => 1#1 | .write => 0#1)

/-- The low 32 bits of the syndrome register by G8: EC in [31:26], IL = 1 in [25], ISS in [24:0]. -/
def trapEsr (code : Nat) (m : SysMove) : BitVec 32 := BitVec.ofNat 6 code ++ 1#1 ++ trapIss m

end Sys2Proof.Machine
end

