-- ==== Sys2Proof/Tests/Slice0.lean ====
section
/-! SUPPORT. Tests with expected results from the spec's vectors (spec/95), and for every statement with hypotheses a
concrete state that meets them. -/

namespace Sys2Proof.Machine.Tests

/-! ## Helpers -/

/-- The baseline inputs B of spec/95 2.4 at a level. -/
def base (el : EL) : Env := { Env.reset with pstateEL := el }

/-- The changes HC of spec/95 2.4. -/
def hc (e : Env) : Env := { e with oslsrEL1OSLK := 0#1, haltingAllowed := true, edscr2TTA := 1#1 }

/-- The configuration of spec/95 2.4 with every field implemented (2.2, `full`). -/
def full : Config := configReset

/-- Read and write access give the same check. -/
def both (c : Config) (e : Env) (k : Check) : Bool := gate c e .read == k && gate c e .write == k

/-- A settled register holding `v`. -/
def holding (v : Word) : Trc := { value := v, settledLo := true, settledHi := true }

/-- A state at EL2 under B with a settled register and one general-purpose register set (spec/95 2.5). -/
def at2 (v : Word) (t : RegNum) (x : Word) : State :=
  { State.reset with env := base .el2, trc := holding v, x := XFile.put State.reset.x t x }

/-- A state at a level under B, after reset. -/
def atEL (el : EL) : State := { State.reset with env := base el }

/-- The state reached, if there is one, satisfies `p`. -/
def reaches (o : Host.Outcome State Fault Refusal) (p : State → Bool) : Bool :=
  match o with
  | .next s => p s
  | .fault _ => false
  | .refused _ => false

/-! ## WellFormed: an ill-formed move for each check (R73, the near words of spec/95 2.7) -/

theorem test_wellFormed_refuses_each_field :
    SysMove.isAccessor ⟨.read, 3#2, 1#3, 0#4, 2#4, 1#3, 0#5⟩ = false
      ∧ SysMove.isAccessor ⟨.read, 2#2, 0#3, 0#4, 2#4, 1#3, 0#5⟩ = false
      ∧ SysMove.isAccessor ⟨.read, 2#2, 1#3, 1#4, 2#4, 1#3, 0#5⟩ = false
      ∧ SysMove.isAccessor ⟨.read, 2#2, 1#3, 0#4, 3#4, 1#3, 0#5⟩ = false
      ∧ SysMove.isAccessor ⟨.read, 2#2, 1#3, 0#4, 2#4, 2#3, 0#5⟩ = false
      ∧ SysMove.isAccessor ⟨.read, 2#2, 1#3, 0#4, 2#4, 1#3, 31#5⟩ = true := by decide

/-! ## Decoding: words written out bit by bit from R74 and R75 -/

theorem test_decode_mrs_bits :
    decode 0b11010101001100010000001000100011#32 = .ok (.mrsTrciteedcr 3#5) := by decide

theorem test_decode_msr_bits :
    decode 0b11010101000100010000001000111111#32 = .ok (.msrTrciteedcr 31#5) := by decide

/-- The words "not accessors of this spec" of spec/95 2.7. -/
theorem test_decode_refuses_near_words :
    [0xD5310240#32, 0xD5310200#32, 0xD5310320#32, 0xD5310120#32, 0xD5311220#32, 0xD5300220#32, 0xD5320220#32,
      0xD5390220#32, 0xD5210220#32].map (fun w => (decode w).instr?)
      = List.replicate 9 none := by decide

theorem test_tableWord : decodeTableWord 32 0xD5310221 = some (.mrsTrciteedcr 1#5)
    ∧ decodeTableWord 32 0xD5110225 = some (.msrTrciteedcr 5#5) := by decide

/-! ## Fields, masks and the permission predicate (spec/95 2.1 to 2.3) -/

theorem test_fields_of_0x51_and_0x2A :
    [fieldRL 0x51#64, fieldS 0x51#64, fieldNS 0x51#64, fieldE3 0x51#64, fieldE2 0x51#64, fieldE1 0x51#64, fieldE0 0x51#64]
        = [1, 0, 1, 0, 0, 0, 1]
      ∧ [fieldRL 0x2A#64, fieldS 0x2A#64, fieldNS 0x2A#64, fieldE3 0x2A#64, fieldE2 0x2A#64, fieldE1 0x2A#64,
          fieldE0 0x2A#64] = [0, 1, 0, 1, 0, 1, 0] := by decide

theorem test_stored_vectors :
    stored full 0xFFFFFFFFFFFFFFFF#64 = 0x7F#64 ∧ stored full 0x123456789ABCDEF5#64 = 0x75#64
      ∧ stored { full with haveEL2Any := false } 0x7F#64 = 0x7B#64
      ∧ stored { full with implRL := false, implE3 := false } 0xFF#64 = 0x37#64
      ∧ stored { full with implRL := false, implS := false, implNS := false, implE3 := false, haveEL2Any := false }
          0x7F#64 = 0x03#64
      ∧ stored { full with res0StorageMask := 0x80#64 } 0x1FF#64 = 0xFF#64
      ∧ stored { full with res0StorageMask := 0xFFFFFFFFFFFFFF80#64 } 0xDEADBEEF00000180#64
          = 0xDEADBEEF00000180#64 := by decide

theorem test_regPermits_vectors :
    (regPermits full 0x11#64 .nonSecure .el0 && !regPermits full 0x11#64 .nonSecure .el1
        && !regPermits full 0x11#64 .secure .el0 && !regPermits full 0x11#64 .realm .el0
        && regPermits full 0x47#64 .realm .el2 && !regPermits full 0x47#64 .nonSecure .el2
        && regPermits { full with featRME := false } 0x28#64 .secure .el3 && regPermits full 0x28#64 .secure .el3
        && !regPermits { full with featRME := false } 0x08#64 .secure .el3 && regPermits full 0x08#64 .secure .el3
        && !regPermits { full with featRME := false } 0x20#64 .secure .el3
        && !regPermits full 0x77#64 .secure .el3) = true := by decide

/-! ## The access check (spec/95 2.4, A1 to A47) -/

theorem test_access_absent_and_el0 :
    (both full (base .el0) .undefined
      && both full (hc { base .el0 with cptrEL3TTA := 1#1, cpacrEL1TTA := 1#1, cptrEL2TTA := 1#1 }) .undefined
      && both { full with featITE := false } (base .el3) .undefined
      && both { full with featETE := false } { base .el1 with cpacrEL1TTA := 1#1 } .undefined
      && both { full with sysregTrace := false } (base .el2) .undefined) = true := by decide

theorem test_access_el1_traps :
    (both full (base .el1) .proceed
      && both full { base .el1 with cpacrEL1TTA := 1#1, cptrEL2TTA := 1#1, cptrEL3TTA := 1#1 } (.trap .el1)
      && both full { base .el1 with cptrEL3TTA := 1#1, el3SDDUndefPriority := true, cpacrEL1TTA := 1#1 } .undefined
      && both { full with haveEL3 := false }
          { base .el1 with cptrEL3TTA := 1#1, el3SDDUndefPriority := true, el3SDDUndef := true } .proceed
      && both full { base .el1 with cptrEL2TTA := 1#1 } (.trap .el2)
      && both full { base .el1 with cptrEL2TTA := 1#1, el2Enabled := false } .proceed
      && both full { base .el1 with cptrEL3TTA := 1#1 } (.trap .el3)
      && both full { base .el1 with cptrEL3TTA := 1#1, el3SDDUndef := true } .undefined
      && both full { base .el1 with cptrEL3TTA := 1#1, cptrEL2TTA := 1#1 } (.trap .el2)) = true := by decide

theorem test_access_el1_fine_grained :
    gate full { base .el1 with scrEL3FGTEn := 1#1, hdfgrtrEL2TRC := 1#1 } .read = .trap .el2
      ∧ gate full { base .el1 with scrEL3FGTEn := 1#1, hdfgrtrEL2TRC := 1#1 } .write = .proceed
      ∧ gate full { base .el1 with scrEL3FGTEn := 1#1, hdfgwtrEL2TRC := 1#1 } .read = .proceed
      ∧ gate full { base .el1 with scrEL3FGTEn := 1#1, hdfgwtrEL2TRC := 1#1 } .write = .trap .el2
      ∧ both full { base .el1 with hdfgrtrEL2TRC := 1#1, hdfgwtrEL2TRC := 1#1 } .proceed = true
      ∧ both { full with haveEL3 := false } { base .el1 with hdfgrtrEL2TRC := 1#1, hdfgwtrEL2TRC := 1#1 } (.trap .el2)
          = true
      ∧ both { full with featFGT := false }
          { base .el1 with scrEL3FGTEn := 1#1, hdfgrtrEL2TRC := 1#1, hdfgwtrEL2TRC := 1#1 } .proceed = true
      ∧ both full { base .el1 with
          el2Enabled := false, scrEL3FGTEn := 1#1, hdfgrtrEL2TRC := 1#1, hdfgwtrEL2TRC := 1#1 } .proceed = true
      ∧ gate full { base .el1 with cptrEL3TTA := 1#1, scrEL3FGTEn := 1#1, hdfgrtrEL2TRC := 1#1 } .write
          = .trap .el3 := by decide

theorem test_access_el1_halt :
    (both full (hc (base .el1)) .halt
      && both full { hc (base .el1) with el1UsingAArch32 := true } .halt
      && both full { hc (base .el1) with oslsrEL1OSLK := 1#1 } .proceed
      && both { full with featTRBEEXT := false } (hc (base .el1)) .proceed
      && both full { hc (base .el1) with cptrEL3TTA := 1#1 } (.trap .el3)
      && both full { hc (base .el1) with haltingAllowed := false } .proceed
      && both full { hc (base .el1) with edscr2TTA := 0#1 } .proceed) = true := by decide

theorem test_access_el2 :
    (both full (base .el2) .proceed
      && both full { base .el2 with cptrEL2TTA := 1#1, el2Enabled := false } (.trap .el2)
      && both full { base .el2 with cpacrEL1TTA := 1#1 } .proceed
      && both full { base .el2 with scrEL3FGTEn := 1#1, hdfgrtrEL2TRC := 1#1, hdfgwtrEL2TRC := 1#1 } .proceed
      && both full { base .el2 with cptrEL3TTA := 1#1 } (.trap .el3)
      && both full { base .el2 with cptrEL3TTA := 1#1, el3SDDUndef := true } .undefined
      && both full { base .el2 with cptrEL3TTA := 1#1, el3SDDUndefPriority := true, cptrEL2TTA := 1#1 } .undefined
      && both full { base .el2 with cptrEL3TTA := 1#1, cptrEL2TTA := 1#1 } (.trap .el2)
      && both full (hc (base .el2)) .halt
      && both full { hc (base .el2) with el1UsingAArch32 := true } .proceed) = true := by decide

theorem test_access_el3 :
    (both full (base .el3) .proceed
      && both full { base .el3 with cptrEL3TTA := 1#1, el3SDDUndef := true, el3SDDUndefPriority := true } (.trap .el3)
      && both full { base .el3 with
          cpacrEL1TTA := 1#1, cptrEL2TTA := 1#1, hdfgrtrEL2TRC := 1#1, hdfgwtrEL2TRC := 1#1, scrEL3FGTEn := 1#1 } .proceed
      && both full (hc (base .el3)) .halt
      && both full { hc (base .el3) with el1UsingAArch32 := true } .proceed
      && both full { hc (base .el3) with cptrEL3TTA := 1#1 } (.trap .el3)) = true := by decide

/-! ## The transfers and the external write (spec/95 2.5, 2.6) -/

/-- T1. -/
theorem test_mrs_T1 : reaches (exec (.mrsTrciteedcr 3#5) (at2 0x51#64 3#5 0xAAAAAAAAAAAAAAAA#64))
    (fun s => readX 3#5 s == 0x51#64 && s.trc.value == 0x51#64 && s.pe == .completed) = true := by decide

/-- T4: register 31 is discarded. -/
theorem test_mrs_T4 : reaches (exec (.mrsTrciteedcr 31#5) (at2 0x51#64 3#5 0xAA#64))
    (fun s => s.x == (at2 0x51#64 3#5 0xAA#64).x && s.pe == .completed) = true := by decide

/-- T5 and T11. -/
theorem test_msr_T5_T11 :
    reaches (exec (.msrTrciteedcr 5#5) (at2 0#64 5#5 0xFFFFFFFFFFFFFFFF#64))
      (fun s => s.trc == holding 0x7F#64 && readX 5#5 s == 0xFFFFFFFFFFFFFFFF#64) = true
    ∧ reaches (exec (.msrTrciteedcr 5#5) { at2 0#64 5#5 0x7F#64 with cfg := { full with haveEL2Any := false } })
      (fun s => s.trc == holding 0x7B#64) = true := by decide

/-- T8: the access check comes before the Idle test. -/
theorem test_msr_T8 :
    reaches (exec (.msrTrciteedcr 5#5)
        { at2 0x7F#64 5#5 0x12#64 with env := { base .el2 with traceUnitIdle := false, cptrEL2TTA := 1#1 } })
      (fun s => s.trc == holding 0x7F#64 && s.pe == .systemAccessTrap .el2 0x18 .write 5#5) = true := by decide

/-- X2 and X3. -/
theorem test_external_write_X2_X3 :
    Trc.writeLow full (holding 0#64) 0xFFFFFFFF#32 = holding 0x7F#64
      ∧ Trc.writeLow { full with res0StorageMask := 0xFFFFFFFFFFFFFF80#64 } (holding 0xAAAAAAAA00000000#64)
          0x12345678#32 = holding 0xAAAAAAAA12345678#64 := by decide

/-- X6: an external write on an unsettled register leaves the high half unsettled. -/
theorem test_external_write_X6 :
    Trc.writeLow { full with res0StorageMask := 0xFFFFFFFFFFFFFF80#64 } Trc.reset 0x15#32
      = { value := 0x15#64, settledLo := true, settledHi := false } := by decide

/-- The syndromes of spec/95 2.7 (G8, not normative). -/
theorem test_syndrome :
    trapIss (Instr.toMove (.mrsTrciteedcr 3#5)) = 0x224065#25
      ∧ trapEsr trapCode (Instr.toMove (.mrsTrciteedcr 3#5)) = 0x62224065#32
      ∧ trapEsr trapCode (Instr.toMove (.msrTrciteedcr 5#5)) = 0x622240A4#32 := by decide

/-- A presented instruction is the first thing the machine runs after reset. -/
theorem test_withFetchWord_runs :
    step (State.reset.withFetchWord 32 0xD5110220) = exec (.msrTrciteedcr 0#5) State.reset := rfl

/-! ## Witnesses: for each statement with hypotheses, a state that meets them -/

theorem witness_OtherRegistersAreNamedAndRefused :
    let m : SysMove := ⟨.read, 3#2, 1#3, 0#4, 2#4, 1#3, 0#5⟩
    m.op0.getLsbD 1 = true ∧ ¬ (m.op0 = 2#2 ∧ m.op1 = 1#3 ∧ m.crn = 0#4 ∧ m.crm = 2#4 ∧ m.op2 = 1#3) := by decide

theorem witness_StepRunsTheDecodedInstruction :
    let s := State.reset.withFetchWord 32 0xD5310220
    s.agenda = [.fetch 0xD5310220#32] ∧ s.pe = .completed ∧ decode 0xD5310220#32 = .ok (.mrsTrciteedcr 0#5) := by
  decide

theorem witness_StepRefusesWhatIsNoAccessor :
    let s := State.reset.withFetchWord 32 0xD5310240
    let u := State.reset.withFetchWord 32 0xD5210220
    s.agenda = [.fetch 0xD5310240#32] ∧ s.pe = .completed ∧ decode 0xD5310240#32 = .otherRegister 2#2 1#3 0#4 2#4 2#3
      ∧ u.agenda = [.fetch 0xD5210220#32] ∧ u.pe = .completed ∧ decode 0xD5210220#32 = .notSysregMove := by decide

/-- One state for each clause: a pending word, and each of the three hooks. -/
theorem witness_PendingOutcomeWaitsForItsHook :
    let e := base .el2
    let x := State.reset.x
    let s₁ : State := { State.reset with pe := .halt .softwareAccess, agenda := [.fetch 0xD5310220#32] }
    let s₂ : State := { State.reset with pe := .undefined, agenda := [.takeUndefined e x] }
    let s₃ : State := { State.reset with
      pe := .systemAccessTrap .el2 0x18 .read 3#5, agenda := [.takeSystemAccessTrap e x] }
    let s₄ : State := { State.reset with pe := .halt .softwareAccess, agenda := [.resumeFromHalt e x] }
    s₁.pe ≠ .completed ∧ s₂.pe = .undefined ∧ s₃.pe = .systemAccessTrap .el2 0x18 .read 3#5
      ∧ s₄.pe = .halt .softwareAccess := by decide

theorem witness_EnclosingMachineStep :
    ({ State.reset with agenda := [.enclosing (base .el1) State.reset.x] } : State).agenda
      = [.enclosing (base .el1) State.reset.x] := rfl

theorem witness_AbsentRegisterIsUndefined :
    ({ full with featITE := false } : Config).absentBeforeTraps = true
      ∧ ¬ RegisterPresent { full with featITE := false } := by decide

/-- One configuration with an input for each clause: the checks pass, they trap, they halt. -/
theorem witness_AbsentRegisterAfterTheTraps :
    let c : Config := { full with featITE := false, absentBeforeTraps := false }
    c.absentBeforeTraps = false ∧ ¬ RegisterPresent c ∧ ChecksPass c (base .el1) .read
      ∧ accessCheck c (base .el0) .read = .undefined
      ∧ accessCheck c { base .el1 with el3SDDUndefPriority := true, cptrEL3TTA := 1#1 } .write = .undefined
      ∧ accessCheck c { base .el2 with el3SDDUndef := true, cptrEL3TTA := 1#1 } .read = .undefined
      ∧ accessCheck c { base .el1 with cpacrEL1TTA := 1#1 } .read = .trap .el1
      ∧ accessCheck c (hc (base .el1)) .read = .halt := by decide

theorem witness_El0AccessIsUndefined : (atEL .el0).env.pstateEL = .el0 := rfl

/-- The arms are each reached by the vectors of `test_access_el1_traps`, `_fine_grained` and `_halt`. -/
theorem witness_El1ArmsInOrder : (atEL .el1).env.pstateEL = .el1 ∧ RegisterPresent (atEL .el1).cfg := by decide

/-- The arms are each reached by the vectors of `test_access_el2`. -/
theorem witness_El2ArmsInOrder : (atEL .el2).env.pstateEL = .el2 ∧ RegisterPresent (atEL .el2).cfg := by decide

/-- The arms are each reached by the vectors of `test_access_el3`. -/
theorem witness_El3ArmsInOrder : (atEL .el3).env.pstateEL = .el3 ∧ RegisterPresent (atEL .el3).cfg := by decide

/-- For each clause: equal controls, and checks that differ. -/
theorem witness_ReadAndWriteChecksDifferOnlyFineGrained :
    (base .el1).hdfgrtrEL2TRC = (base .el1).hdfgwtrEL2TRC
      ∧ accessCheck full { base .el1 with scrEL3FGTEn := 1#1, hdfgrtrEL2TRC := 1#1 } .read
        ≠ accessCheck full { base .el1 with scrEL3FGTEn := 1#1, hdfgrtrEL2TRC := 1#1 } .write := by decide

theorem witness_OutcomeIgnoresDataAndTraceInputs :
    let s₁ := atEL .el1
    let s₂ : State := { at2 0x51#64 3#5 1#64 with
      env := { s₁.env with selfHostedTraceEnabled := true, traceUnitIdle := true, trcconfigrITO := 1#1 } }
    s₂.cfg = s₁.cfg
      ∧ s₂.env = { s₁.env with selfHostedTraceEnabled := true, traceUnitIdle := true, trcconfigrITO := 1#1 }
      ∧ true = s₁.env.traceUnitIdle
      ∧ recordedOutcome (exec (.mrsTrciteedcr 3#5) s₁) = some .completed
      ∧ recordedOutcome (exec (.msrTrciteedcr 3#5) s₁) = some .completed := by decide

theorem witness_HandlerAccessTrapsAgain :
    let s : State := { State.reset with env := { base .el1 with cptrEL2TTA := 1#1 } }
    s.env.pstateEL = .el1 ∧ s.env.el2Enabled = true ∧ s.env.cptrEL2TTA = 1#1
      ∧ exec (.mrsTrciteedcr 3#5) s = .next { s with pe := .systemAccessTrap .el2 0x18 .read 3#5 } :=
  ⟨rfl, rfl, rfl, rfl⟩

/-- A trap to each level, and a halt. -/
theorem witness_TrapsComeFromTheirControls :
    let s₁ : State := { State.reset with env := { base .el1 with cpacrEL1TTA := 1#1 } }
    let s₂ : State := { State.reset with env := { base .el2 with cptrEL2TTA := 1#1 } }
    let s₃ : State := { State.reset with env := { base .el1 with cptrEL3TTA := 1#1 } }
    let u : State := { State.reset with env := hc (base .el2) }
    exec (.msrTrciteedcr 5#5) s₁ = .next { s₁ with pe := .systemAccessTrap .el1 0x18 .write 5#5 }
      ∧ exec (.mrsTrciteedcr 5#5) s₂ = .next { s₂ with pe := .systemAccessTrap .el2 0x18 .read 5#5 }
      ∧ exec (.mrsTrciteedcr 5#5) s₃ = .next { s₃ with pe := .systemAccessTrap .el3 0x18 .read 5#5 }
      ∧ exec (.mrsTrciteedcr 5#5) u = .next { u with pe := .halt .softwareAccess } := ⟨rfl, rfl, rfl, rfl⟩

theorem witness_OutcomesArePrecise :
    exec (.mrsTrciteedcr 3#5) (atEL .el0) = .next { atEL .el0 with pe := .undefined }
      ∧ ({ atEL .el0 with pe := .undefined } : State).pe ≠ .completed := ⟨rfl, by decide⟩

theorem witness_AccessorFrame :
    ∃ s', exec (.msrTrciteedcr 3#5) (atEL .el2) = .next s' := ⟨_, rfl⟩

theorem witness_AccessorFrame_read :
    ∃ s', exec (.mrsTrciteedcr 3#5) (atEL .el2) = .next s' := ⟨_, rfl⟩

theorem witness_MrsCompletes : AccessPermitted (atEL .el2).cfg (atEL .el2).env .read := by decide

theorem witness_MrsDeliversTheStoredValue :
    let s := at2 0x51#64 3#5 0#64
    AccessPermitted s.cfg s.env .read ∧ TrcOk s.cfg s.trc ∧ s.trc.settledLo = true ∧ s.trc.settledHi = true
      ∧ (30#5 : RegNum) ≠ 31#5 := by decide

theorem witness_ViewBitByBit : (31 < 64) ∧ (32 < 64) ∧ (63 < 64) := by decide

/-- An unsettled register, and the default storage mask of the second clause. -/
theorem witness_MrsDeliversOnlyWritableBits :
    AccessPermitted State.reset.cfg State.reset.env .read ∧ (0#5 : RegNum) ≠ 31#5
      ∧ writableAt State.reset.cfg 7 = false ∧ State.reset.cfg.res0StorageMask = 0#64 := by decide

theorem witness_MsrCompletes :
    AccessPermitted (atEL .el1).cfg (atEL .el1).env .write ∧ (atEL .el1).env.traceUnitIdle = true := by decide

/-- With every field implemented, so each clause is met. -/
theorem witness_MsrWritesEachField :
    AccessPermitted full (base .el1) .write ∧ (base .el1).traceUnitIdle = true ∧ full.haveEL2Any = true
      ∧ full.implE3 = true ∧ full.implNS = true ∧ full.implS = true ∧ full.implRL = true := by decide

theorem witness_MsrFromTheZeroRegisterStoresZero :
    AccessPermitted (atEL .el3).cfg (atEL .el3).env .write ∧ (atEL .el3).env.traceUnitIdle = true := by decide

theorem witness_MsrWhileNotIdleFaults :
    let e : Env := { base .el2 with traceUnitIdle := false }
    AccessPermitted full e .write ∧ e.traceUnitIdle = false := by decide

theorem witness_ReadAfterWriteReturnsStored :
    AccessPermitted (atEL .el2).cfg (atEL .el2).env .write ∧ AccessPermitted (atEL .el2).cfg (atEL .el2).env .read
      ∧ (atEL .el2).env.traceUnitIdle = true ∧ (6#5 : RegNum) ≠ 31#5 :=
  ⟨by decide, by decide, by decide⟩

theorem witness_WritingBackTheValueReadChangesNothing :
    let s := at2 0x33#64 3#5 0#64
    AccessPermitted s.cfg s.env .read ∧ AccessPermitted s.cfg s.env .write ∧ s.env.traceUnitIdle = true
      ∧ TrcOk s.cfg s.trc ∧ s.trc.settledLo = true ∧ s.trc.settledHi = true ∧ (3#5 : RegNum) ≠ 31#5 :=
  ⟨by decide, by decide, by decide⟩

theorem witness_SettledReadsAgree :
    let s := at2 0x33#64 3#5 0#64
    AccessPermitted s.cfg s.env .read ∧ s.trc.settledLo = true ∧ s.trc.settledHi = true ∧ (1#5 : RegNum) ≠ 31#5
      ∧ (2#5 : RegNum) ≠ 31#5 ∧ (1#5 : RegNum) ≠ 2#5 := by decide

theorem witness_ExternalReadStep :
    let s : State := { State.reset with agenda := [.extRead ⟨0, 32⟩] }
    s.agenda = [.extRead ⟨0, 32⟩] ∧ (⟨0, 32⟩ : ExtAccess).offset = s.cfg.extOffset := by decide

/-- With the trace unit Idle and not Idle; admission is open, and the statement answers both. -/
theorem witness_ExternalWriteStep :
    let s : State := { State.reset with agenda := [.extWrite ⟨0, 32⟩ 0x60#32] }
    let u : State := { s with env := { s.env with traceUnitIdle := false } }
    s.agenda = [.extWrite ⟨0, 32⟩ 0x60#32] ∧ (0 : Nat) = s.cfg.extOffset ∧ s.env.traceUnitIdle = true
      ∧ u.agenda = s.agenda ∧ u.env.traceUnitIdle = false := by decide

/-- A wrong width and a wrong offset. -/
theorem witness_OtherExternalShapesAreRefused :
    ¬ ((⟨0, 16⟩ : ExtAccess).offset = State.reset.cfg.extOffset ∧ (⟨0, 16⟩ : ExtAccess).bits = 32)
      ∧ ¬ ((⟨4, 32⟩ : ExtAccess).offset = State.reset.cfg.extOffset ∧ (⟨4, 32⟩ : ExtAccess).bits = 32)
      ∧ ({ State.reset with agenda := [.extRead ⟨0, 16⟩] } : State).agenda = [.extRead ⟨0, 16⟩]
      ∧ ({ State.reset with agenda := [.extWrite ⟨4, 32⟩ 0#32] } : State).agenda = [.extWrite ⟨4, 32⟩ 0#32] := by decide

theorem witness_BothViewsShareTheLowHalf :
    (atEL .el2).env.traceUnitIdle = true ∧ AccessPermitted (atEL .el2).cfg (atEL .el2).env .read
      ∧ AccessPermitted (atEL .el2).cfg (atEL .el2).env .write ∧ (1#5 : RegNum) ≠ 31#5 :=
  ⟨by decide, by decide, by decide⟩

theorem witness_SelfHostedTraceIgnoresTheFields :
    let s : State := { State.reset with
      env := { base .el3 with selfHostedTraceEnabled := true }, agenda := [.traceRead .nonSecure .el0] }
    s.env.selfHostedTraceEnabled = true ∧ s.agenda = [.traceRead .nonSecure .el0] := by decide

theorem witness_TraceDecisionOnASyncedRegister :
    let s : State := { at2 0x7F#64 3#5 0#64 with agenda := [.traceRead .realm .el3] }
    s.env.selfHostedTraceEnabled = false ∧ TraceSynced s ∧ s.agenda = [.traceRead .realm .el3] := by decide

/-- A state in which an older content is still visible. -/
theorem witness_TraceUnitSeesOldOrNew :
    let s : State := { at2 0x7F#64 3#5 0#64 with visible := [holding 0#64], agenda := [.traceRead .secure .el1] }
    s.env.selfHostedTraceEnabled = false ∧ s.agenda = [.traceRead .secure .el1] := by decide

theorem witness_WritingZeroProhibitsTraceEverywhere :
    AccessPermitted (atEL .el3).cfg (atEL .el3).env .write ∧ (atEL .el3).env.traceUnitIdle = true
      ∧ (atEL .el3).env.selfHostedTraceEnabled = false := by decide

theorem witness_TraceSyncStep :
    ({ at2 0#64 3#5 0#64 with visible := [holding 1#64], agenda := [.traceSync] } : State).agenda = [.traceSync] := rfl

theorem witness_ResetStepUnsettlesTheRegister :
    ({ at2 0x7F#64 3#5 0#64 with agenda := [.reset] } : State).agenda = [.reset] := rfl

theorem witness_StepKeepsStateInv :
    let s : State := { at2 0x7F#64 3#5 0#64 with agenda := [.reset] }
    StateInv s ∧ ∃ s', step s = .next s' := ⟨by decide, _, rfl⟩

theorem witness_StepKeepsTheConfiguration :
    ∃ s', step (State.reset.withFetchWord 32 0xD5110220) = .next s' := ⟨_, rfl⟩

theorem witness_OnlyWritersChangeTheRegister :
    ∃ s', step (State.reset.withFetchWord 32 0xD5110220) = .next s' ∧ s'.trc ≠ State.reset.trc := ⟨_, rfl, by decide⟩

theorem witness_OnlyReadsAndTheEnclosingMachineChangeX :
    ∃ s', step ((at2 0x51#64 3#5 0#64).withFetchWord 32 0xD5310221) = .next s'
      ∧ s'.x ≠ (at2 0x51#64 3#5 0#64).x := ⟨_, rfl, by decide⟩

theorem witness_OnlyTheEnclosingMachineChangesInputs :
    ∃ s', step { State.reset with agenda := [.enclosing (base .el1) State.reset.x] } = .next s'
      ∧ s'.env ≠ State.reset.env := ⟨_, rfl, by decide⟩

theorem witness_SettledUntilReset :
    let s := (at2 0x51#64 3#5 0#64).withFetchWord 32 0xD5110223
    (∃ s', step s = .next s') ∧ (∀ rest, s.agenda ≠ .reset :: rest) ∧ s.trc.settledLo = true
      ∧ s.trc.settledHi = true := ⟨⟨_, rfl⟩, by simp [State.withFetchWord], rfl, rfl⟩

theorem witness_NoExternalWritesIsKept :
    let s := State.reset.withFetchWord 32 0xD5110220
    NoExternalWrites s ∧ ∃ s', step s = .next s' ∧ s'.trc ≠ s.trc :=
  ⟨by simp [NoExternalWrites, State.withFetchWord, State.reset, Event.isExtWrite], _, rfl, by decide⟩

end Sys2Proof.Machine.Tests
end

section
/-! The enclosing machine's event: what running it does, and so what the step that takes it off the agenda does. -/

namespace Sys2Proof.Machine

/-- The event writes the inputs (R11, R37) and the X registers (R34, R42) and has no other effect. -/
theorem runEvent_enclosing (env : Env) (x : XFile) (s : State) :
    runEvent (.enclosing env x) s = .next { s with env := env, x := x } := rfl

/-- Settles O8: the step takes the event off the agenda, and running the event replaces the inputs and X alone. -/
theorem enclosingMachineStep : Obligations.EnclosingMachineStep := by
  intro s env x rest h
  rw [step_cons h, runEvent_enclosing]

end Sys2Proof.Machine
end

section
/-! What a completed write leaves in each field (R23 to R28). -/

namespace Sys2Proof.Machine

/-- `Stored` keeps the bit of every field (R30). -/
theorem stored_extractLsb'_of_fieldAt {c : Config} {j : Nat} (v : Word) (hj : j < 64) (hField : fieldAt c j = true) :
    (stored c v).extractLsb' j 1 = v.extractLsb' j 1 := by
  apply BitVec.eq_of_getLsbD_eq
  intro i hi
  obtain rfl : i = 0 := by omega
  simp [stored, writableMask_getLsbD c hj, writableAt, hField]

/-- Settles O30: the write stores `Stored(x[t])`, which keeps the bit of each position that is a field. -/
theorem msrWritesEachField : Obligations.MsrWritesEachField := by
  intro t s hPermitted hIdle
  have hField : ∀ j < 64, fieldAt s.cfg j = true →
      (stored s.cfg (readX t s)).extractLsb' j 1 = (readX t s).extractLsb' j 1 :=
    fun _ => stored_extractLsb'_of_fieldAt _
  refine ⟨_, by rw [exec_msr_of_permitted hPermitted, if_pos hIdle], ?_⟩
  rw [endStep_trc, storeTrc_trc, Trc.write_value]
  exact ⟨hField 0 (by decide) rfl, hField 1 (by decide) rfl, hField 2 (by decide), hField 3 (by decide),
    hField 4 (by decide), hField 5 (by decide), hField 6 (by decide)⟩

end Sys2Proof.Machine
end

section
/-! Who writes the inputs (R37). -/

namespace Sys2Proof.Machine

/-- Neither accessor writes an input (R37, R100). -/
theorem exec_env {i : Instr} {s s' : State} (h : exec i s = .next s') : s'.env = s.env := by
  rcases exec_cases i s with ⟨_, o, _, _, hx⟩ | ⟨t, _, _, hx⟩ | ⟨t, _, _, _, hx⟩ | ⟨t, _, _, _, hx⟩ <;>
    rw [hx] at h <;> cases h
  all_goals rfl

/-- Settles O51: of the steps a machine can take, each but the enclosing machine's and its hooks' keeps the inputs. -/
theorem onlyTheEnclosingMachineChangesInputs : Obligations.OnlyTheEnclosingMachineChangesInputs := by
  intro s s' hStep hChanged
  rcases step_cases hStep with ⟨rfl, _⟩ | ⟨e, rest, hAgenda, hEvent⟩
  · exact absurd rfl hChanged
  rcases hEvent with ⟨w, i, _, _, _, hExec⟩ | ⟨a, _, hs⟩ | ⟨a, w, _, ⟨_, _, _, _, hs⟩ | hs⟩ | ⟨ss, el, _, hs⟩
    | ⟨_, hs⟩ | ⟨_, hs⟩ | ⟨env, x, hKind, o, _, hs⟩
  · have hEnv := exec_env hExec
    exact absurd hEnv hChanged
  · exact absurd (by rw [hs]) hChanged
  · exact absurd (by rw [hs, storeTrc_env]) hChanged
  · exact absurd (by rw [hs]) hChanged
  · exact absurd (by rw [hs]) hChanged
  · exact absurd (by rw [hs]) hChanged
  · exact absurd (by rw [hs]) hChanged
  · exact ⟨env, x, rest, by rw [hs], by simpa [hAgenda] using hKind⟩

end Sys2Proof.Machine
end

section
/-! What self-hosted trace takes away: the fields' effect on the decision, not what an accessor does (R31). -/

namespace Sys2Proof.Machine

/-- While self-hosted trace is enabled the decision is the open function's, whatever contents are seen (R31, R33). -/
theorem itePermitted_of_selfHosted {e : Env} (h : e.selfHostedTraceEnabled = true) (c : Config) (v : Word)
    (ss : SecurityState) (el : EL) (n : Nat) : itePermitted c e v ss el n = Config.selfHostedPermitted ss el n := by
  simp [itePermitted, h]

/-- A step of the trace unit while self-hosted trace is enabled (R31). -/
theorem step_traceRead_of_selfHosted {s : State} {ss : SecurityState} {el : EL} {rest : List Event}
    (hSelf : s.env.selfHostedTraceEnabled = true) (h : s.agenda = .traceRead ss el :: rest) :
    step s = .next (drawn { s with
      agenda := rest, traceDecision := some (Config.selfHostedPermitted ss el s.draws) }) := by
  rw [step_cons h, runEvent, traceRead, itePermitted_of_selfHosted hSelf]

/-- `s` with `SelfHostedTraceEnabled()` returning `b`. -/
def State.withSelfHosted (b : Bool) (s : State) : State :=
  { s with env := { s.env with selfHostedTraceEnabled := b } }

/-- What an outcome becomes when `f` is applied to its next state. -/
def mapNext (f : State → State) : Host.Outcome State Fault Refusal → Host.Outcome State Fault Refusal
  | .next s => .next (f s)
  | .fault r => .fault r
  | .refused r => .refused r

/-- No check consults `SelfHostedTraceEnabled()` (R92 to R95). -/
theorem gate_withSelfHosted (b : Bool) (s : State) (dir : Dir) :
    gate (s.withSelfHosted b).cfg (s.withSelfHosted b).env dir = gate s.cfg s.env dir := rfl

/-- An accessor does the same whatever `SelfHostedTraceEnabled()` returns (R31): the gate says the same, and neither
transfer reads it. -/
theorem exec_withSelfHosted (i : Instr) (b : Bool) (s : State) :
    exec i (s.withSelfHosted b) = mapNext (State.withSelfHosted b) (exec i s) := by
  obtain ⟨hUndefined, hTrap, hHalt⟩ := exec_of_gate i s
  obtain ⟨hUndefined', hTrap', hHalt'⟩ := exec_of_gate i (s.withSelfHosted b)
  rw [gate_withSelfHosted] at hUndefined' hTrap' hHalt'
  cases hg : gate s.cfg s.env i.toMove.dir with
  | undefined => rw [hUndefined hg, hUndefined' hg]; rfl
  | trap el => rw [hTrap el hg, hTrap' el hg]; rfl
  | halt => rw [hHalt hg, hHalt' hg]; rfl
  | proceed =>
    have hPermitted := (gate_proceed_iff _ _ _).1 hg
    have hPermitted' := (gate_proceed_iff _ _ _).1 ((gate_withSelfHosted b s _).trans hg)
    cases i with
    | mrsTrciteedcr t => rw [exec_mrs_of_permitted hPermitted, exec_mrs_of_permitted hPermitted']; rfl
    | msrTrciteedcr t =>
      rw [exec_msr_of_permitted hPermitted, exec_msr_of_permitted hPermitted']
      have hSame : (s.withSelfHosted b).env.traceUnitIdle = s.env.traceUnitIdle := rfl
      cases hIdle : s.env.traceUnitIdle <;> rw [hSame, hIdle] <;> rfl

/-- Settles O40: the decision is the open function's at either register, and an accessor commutes with the change of the
function's value. -/
theorem selfHostedTraceIgnoresTheFields : Obligations.SelfHostedTraceIgnoresTheFields := by
  refine ⟨fun s r vis ss el rest hSelf h => ?_, fun i s b => ?_⟩
  · exact ⟨_, _, step_traceRead_of_selfHosted hSelf h, step_traceRead_of_selfHosted hSelf h, rfl, rfl⟩
  · have hCommutes := exec_withSelfHosted i b s
    cases hx : exec i s with
    | next s' =>
      rw [hx] at hCommutes
      exact hCommutes.trans (by simp [mapNext, State.withSelfHosted, exec_env hx])
    | fault f => rw [hx] at hCommutes; exact hCommutes
    | refused r => rw [hx] at hCommutes; exact hCommutes

end Sys2Proof.Machine
end

section
/-! What a completed read leaves in the X registers, and what it sees of a settled register (R43, R59, R96). -/

namespace Sys2Proof.Machine

/-- Reading back a register written, when it is not the zero register (R34). -/
theorem XFile.get_put_self_of_ne (x : XFile) {t : RegNum} (v : Word) (ht : t ≠ 31#5) :
    XFile.get (XFile.put x t v) t = v := by
  have hLt : t.toNat < 31 := by bv_omega
  rw [XFile.get_put_self, if_pos hLt]

/-- A permitted read into a register other than the zero register delivers the view there, and keeps the other X
registers, the configuration, the inputs and the register (R96, R100). -/
theorem exec_mrs_delivers {t : RegNum} {s : State} (hPermitted : AccessPermitted s.cfg s.env .read) (ht : t ≠ 31#5) :
    ∃ s', exec (.mrsTrciteedcr t) s = .next s' ∧ s'.cfg = s.cfg ∧ s'.env = s.env ∧ s'.trc = s.trc
      ∧ readX t s' = viewNow s.trc s ∧ ∀ u, u ≠ t → readX u s' = readX u s :=
  ⟨_, exec_mrs_of_permitted hPermitted, rfl, rfl, rfl, XFile.get_put_self_of_ne _ _ ht,
    fun _ hu => XFile.get_put_of_ne _ _ hu⟩

/-- Of settled contents every reading step sees the same: no draw enters the view, only the configuration's mask (R43). -/
theorem viewNow_eq_of_settled {r : Trc} (hLo : r.settledLo = true) (hHi : r.settledHi = true) {s s' : State}
    (hCfg : s'.cfg = s.cfg) : viewNow r s' = viewNow r s := by
  simp only [viewNow, view, hLo, hHi, if_true, hCfg]

/-- Settles O35: the first read leaves the register settled and the second permitted, and the second, of another X
register, leaves the value of the first in place. -/
theorem settledReadsAgree : Obligations.SettledReadsAgree := by
  intro t u s hPermitted hLo hHi ht hu htu
  obtain ⟨s₁, hExec₁, hCfg, hEnv, hTrc, hRead₁, _⟩ := exec_mrs_delivers hPermitted ht
  have hPermitted₁ : AccessPermitted s₁.cfg s₁.env .read := by rwa [hCfg, hEnv]
  obtain ⟨s₂, hExec₂, _, _, _, hRead₂, hOther⟩ := exec_mrs_delivers hPermitted₁ hu
  refine ⟨s₁, s₂, hExec₁, hExec₂, ?_⟩
  calc readX t s₂ = readX t s₁ := hOther t htu
    _ = viewNow s.trc s := hRead₁
    _ = viewNow s.trc s₁ := (viewNow_eq_of_settled hLo hHi hCfg).symm
    _ = readX u s₂ := by rw [hRead₂, hTrc]

end Sys2Proof.Machine
end

section
/-! The words of System register moves, and what the decoder makes of them (R73, R74). -/

namespace Sys2Proof

/-- The fields the decoder cuts out of the word of a move are those R74 places there; bit 20 is the upper bit of `op0`. -/
theorem SysMove.extractLsb'_encode (m : SysMove) :
    m.encode.extractLsb' 22 10 = 0b1101010100#10 ∧ m.encode.extractLsb' 21 1 = m.dir.bit
      ∧ m.encode.extractLsb' 20 1 = m.op0.extractLsb' 1 1 ∧ m.encode.extractLsb' 19 2 = m.op0
      ∧ m.encode.extractLsb' 16 3 = m.op1 ∧ m.encode.extractLsb' 12 4 = m.crn ∧ m.encode.extractLsb' 8 4 = m.crm
      ∧ m.encode.extractLsb' 5 3 = m.op2 ∧ m.encode.extractLsb' 0 5 = m.t := by
  simp (disch := decide) only [SysMove.encode, BitVec.extractLsb'_append_eq_of_le,
    BitVec.extractLsb'_append_eq_of_add_le, BitVec.extractLsb'_eq_self, Nat.reduceSub, and_self]

/-- The `L` bit of a direction is read back as that direction (R74). -/
theorem Dir.ite_bit (d : Dir) : (if d.bit = 1#1 then Dir.read else Dir.write) = d := by
  cases d <;> rfl

/-- The word of a move with `op0 = 0b1x` splits into that move again (R74). -/
theorem splitMove_encode {m : SysMove} (hOp0 : m.op0.getLsbD 1 = true) : splitMove m.encode = some m := by
  obtain ⟨hTop, hL, hBit20, hOp0Field, hOp1, hCrn, hCrm, hOp2, hT⟩ := m.extractLsb'_encode
  have hFixed : m.op0.extractLsb' 1 1 = 1#1 := by rwa [BitVec.getLsbD_eq_extractLsb', beq_iff_eq] at hOp0
  simp only [splitMove, hTop, hL, hBit20, hFixed, hOp0Field, hOp1, hCrn, hCrm, hOp2, hT,
    Dir.ite_bit, and_self, if_true]

/-- A move is an accessor exactly when its five fields name this register (R73). -/
theorem SysMove.isAccessor_iff (m : SysMove) :
    m.isAccessor = true ↔ m.op0 = 2#2 ∧ m.op1 = 1#3 ∧ m.crn = 0#4 ∧ m.crm = 2#4 ∧ m.op2 = 1#3 := by
  simp [SysMove.isAccessor, and_assoc]

/-- A word that splits into a move of another register is refused with that move's five fields (R73). -/
theorem decode_of_not_isAccessor {w : InsnWord} {m : SysMove} (hSplit : splitMove w = some m)
    (hOther : ¬ m.isAccessor = true) : decode w = .otherRegister m.op0 m.op1 m.crn m.crm m.op2 := by
  simp only [decode, hSplit, SysMove.toInstr?, if_neg hOther]

/-- Settles O4: the word splits into its own move again, and that move is no accessor. -/
theorem otherRegistersAreNamedAndRefused : Obligations.OtherRegistersAreNamedAndRefused := by
  intro m hOp0 hOther
  exact decode_of_not_isAccessor (splitMove_encode hOp0) (mt m.isAccessor_iff.1 hOther)

end Sys2Proof
end

section
/-! The conditions of the checks' arms as propositions, and how an access ends for each answer of the checks
(R91 to R95). -/

namespace Sys2Proof.Machine

/-- `3P` of R105 as a proposition. -/
theorem undefPriority_iff (c : Config) (e : Env) :
    undefPriority c e = true ↔ c.haveEL3 = true ∧ e.el3SDDUndefPriority = true ∧ e.cptrEL3TTA = 1#1 := by
  simp [undefPriority, and_assoc]

/-- `3T` of R105 as a proposition. -/
theorem el3Traps_iff (c : Config) (e : Env) : el3Traps c e = true ↔ EL3Trap c e := by
  simp [el3Traps, EL3Trap]

/-- `FG` of R105 as a proposition. -/
theorem fineGrainedTraps_iff (c : Config) (e : Env) (dir : Dir) :
    fineGrainedTraps c e dir = true ↔ e.el2Enabled = true ∧ c.featFGT = true
      ∧ (c.haveEL3 = false ∨ e.scrEL3FGTEn = 1#1) ∧ fineGrainedControl e dir = 1#1 := by
  simp [fineGrainedTraps, and_assoc]

/-- `H` of R105 as a proposition. -/
theorem haltCondition_iff (c : Config) (e : Env) : haltCondition c e = true ↔ HaltOnAccess c e := by
  simp [haltCondition, HaltOnAccess, and_assoc]

/-- The access check at EL1, each arm's condition as R93 words it. -/
theorem accessCheck_el1 {e : Env} (hEL : e.pstateEL = .el1) (c : Config) (dir : Dir) :
    accessCheck c e dir =
      if c.haveEL3 = true ∧ e.el3SDDUndefPriority = true ∧ e.cptrEL3TTA = 1#1 then .undefined
      else if e.cpacrEL1TTA = 1#1 then .trap .el1
      else if e.el2Enabled = true ∧ e.cptrEL2TTA = 1#1 then .trap .el2
      else if e.el2Enabled = true ∧ c.featFGT = true ∧ (c.haveEL3 = false ∨ e.scrEL3FGTEn = 1#1)
          ∧ fineGrainedControl e dir = 1#1 then .trap .el2
      else if EL3Trap c e then if e.el3SDDUndef = true then .undefined else .trap .el3
      else if HaltOnAccess c e then .halt
      else .proceed := by
  simp only [accessCheck, hEL, checkEL1, el3Arm, undefPriority_iff, fineGrainedTraps_iff, el3Traps_iff,
    haltCondition_iff, Bool.and_eq_true, beq_iff_eq]

/-- The access check at EL2, each arm's condition as R94 words it. -/
theorem accessCheck_el2 {e : Env} (hEL : e.pstateEL = .el2) (c : Config) (dir : Dir) :
    accessCheck c e dir =
      if c.haveEL3 = true ∧ e.el3SDDUndefPriority = true ∧ e.cptrEL3TTA = 1#1 then .undefined
      else if e.cptrEL2TTA = 1#1 then .trap .el2
      else if EL3Trap c e then if e.el3SDDUndef = true then .undefined else .trap .el3
      else if e.el1UsingAArch32 = false ∧ HaltOnAccess c e then .halt
      else .proceed := by
  simp only [accessCheck, hEL, checkEL2, el3Arm, undefPriority_iff, el3Traps_iff, haltCondition_iff,
    Bool.and_eq_true, Bool.not_eq_true', beq_iff_eq]

/-- The access check at EL3, each arm's condition as R95 words it. -/
theorem accessCheck_el3 {e : Env} (hEL : e.pstateEL = .el3) (c : Config) (dir : Dir) :
    accessCheck c e dir =
      if e.cptrEL3TTA = 1#1 then .trap .el3
      else if e.el1UsingAArch32 = false ∧ HaltOnAccess c e then .halt
      else .proceed := by
  simp only [accessCheck, hEL, checkEL3, haltCondition_iff, Bool.and_eq_true, Bool.not_eq_true', beq_iff_eq]

/-- How the access `i` ends at `s` when the checks answer `k`: the outcome recorded and nothing else changed, or on to
the transfer (R90, R136). -/
def EndsAs (i : Instr) (s : State) : Check → Prop
  | .proceed => gate s.cfg s.env i.toMove.dir = .proceed
  | .undefined => exec i s = .next { s with pe := .undefined }
  | .trap el => exec i s = .next { s with pe := .systemAccessTrap el 0x18 i.toMove.dir i.toMove.t }
  | .halt => exec i s = .next { s with pe := .halt .softwareAccess }

/-- An access ends as the gate answers (R90). -/
theorem endsAs_gate (i : Instr) (s : State) : EndsAs i s (gate s.cfg s.env i.toMove.dir) := by
  obtain ⟨hUndefined, hTrap, hHalt⟩ := exec_of_gate i s
  cases hg : gate s.cfg s.env i.toMove.dir with
  | proceed => exact hg
  | undefined => exact hUndefined hg
  | trap el => exact hTrap el hg
  | halt => exact hHalt hg

/-- An access to a register that is present ends as the access check answers (R90). -/
theorem endsAs_accessCheck (i : Instr) {s : State} (h : RegisterPresent s.cfg) :
    EndsAs i s (accessCheck s.cfg s.env i.toMove.dir) :=
  gate_of_present s.env i.toMove.dir h ▸ endsAs_gate i s

/-- Settles O12: the access ends as the access check at EL1 answers, whose arms stand in R93's order. -/
theorem el1ArmsInOrder : Obligations.El1ArmsInOrder := by
  intro i s hEL hPresent
  have hEnds := endsAs_accessCheck i hPresent
  rw [accessCheck_el1 hEL] at hEnds
  simp only [apply_ite (EndsAs i s)] at hEnds
  exact hEnds

/-- Settles O13: the access ends as the access check at EL2 answers, whose arms stand in R94's order. -/
theorem el2ArmsInOrder : Obligations.El2ArmsInOrder := by
  intro i s hEL hPresent
  have hEnds := endsAs_accessCheck i hPresent
  rw [accessCheck_el2 hEL] at hEnds
  simp only [apply_ite (EndsAs i s)] at hEnds
  exact hEnds

/-- Settles O14: the access ends as the access check at EL3 answers, whose arms stand in R95's order. -/
theorem el3ArmsInOrder : Obligations.El3ArmsInOrder := by
  intro i s hEL hPresent
  have hEnds := endsAs_accessCheck i hPresent
  rw [accessCheck_el3 hEL] at hEnds
  simp only [apply_ite (EndsAs i s)] at hEnds
  exact hEnds

/-- With presence tested first the gate answers Undefined for an absent register (R91, D4). -/
theorem gate_of_absent {c : Config} (hFirst : c.absentBeforeTraps = true) (hAbsent : ¬ RegisterPresent c) (e : Env)
    (dir : Dir) : gate c e dir = .undefined := by
  have hPresence : presenceCheck c = .undefined := if_neg (mt (present_iff c).1 hAbsent)
  rw [gate, if_pos hFirst, hPresence, Check.andThen]

/-- At EL0 the gate answers Undefined, whichever check stands first (R92). -/
theorem gate_el0 {e : Env} (hEL : e.pstateEL = .el0) (c : Config) (dir : Dir) : gate c e dir = .undefined := by
  have hCheck : accessCheck c e dir = .undefined := by rw [accessCheck, hEL]
  have hPresence : (presenceCheck c).andThen .undefined = .undefined := by
    unfold presenceCheck
    split <;> rfl
  rw [gate, hCheck, hPresence, Check.andThen, ite_self]

/-- Settles O9: the gate answers Undefined. -/
theorem absentRegisterIsUndefined : Obligations.AbsentRegisterIsUndefined := by
  intro i s hFirst hAbsent
  obtain ⟨hUndefined, _⟩ := exec_of_gate i s
  exact hUndefined (gate_of_absent hFirst hAbsent _ _)

/-- Settles O11: the gate answers Undefined. -/
theorem el0AccessIsUndefined : Obligations.El0AccessIsUndefined := by
  intro i s hEL
  obtain ⟨hUndefined, _⟩ := exec_of_gate i s
  exact hUndefined (gate_el0 hEL _ _)

end Sys2Proof.Machine
end

section
/-! The decision table of R105, row by row. -/

namespace Sys2Proof.Machine

/-- A row of another Exception level is passed over (R105). -/
theorem firstRow_cons_of_ne {l el : EL} (h : l ≠ el) (b : Bool) (k : Check) (rows : List (EL × Bool × Check)) :
    firstRow el ((l, b, k) :: rows) = firstRow el rows :=
  if_neg fun hRow => h hRow.1

/-- A row of the Exception level itself answers when its condition holds (R105). -/
theorem firstRow_cons_self (el : EL) (p : Prop) [Decidable p] (k : Check) (rows : List (EL × Bool × Check)) :
    firstRow el ((el, decide p, k) :: rows) = if p then some k else firstRow el rows := by
  simp only [firstRow, true_and, decide_eq_true_eq]

/-- The last row of an Exception level always answers (R105). -/
theorem firstRow_cons_true (el : EL) (k : Check) (rows : List (EL × Bool × Check)) :
    firstRow el ((el, true, k) :: rows) = some k :=
  if_pos ⟨rfl, rfl⟩

/-- The table's two EL3 rows are the one EL3 arm of R93 and R94. -/
theorem ite_and_eq_ite_ite {α : Type} (p : Prop) [Decidable p] (b : Bool) (x y z : α) :
    (if p ∧ b = true then x else if p ∧ b = false then y else z) = if p then if b = true then x else y else z := by
  by_cases hp : p <;> cases b <;> simp [hp]

/-- `FineGrainedTrap` asks for `SCR_EL3.FGTEn` only where EL3 is implemented (R14, R93). -/
theorem fineGrainedTrap_iff (c : Config) (e : Env) (dir : Dir) :
    FineGrainedTrap c e dir ↔ e.el2Enabled = true ∧ c.featFGT = true
      ∧ (c.haveEL3 = false ∨ e.scrEL3FGTEn = 1#1) ∧ fineGrainedControl e dir = 1#1 := by
  cases h : c.haveEL3 <;> simp [FineGrainedTrap, h]

/-- Settles O15: at each Exception level the rows of that level are the arms of its check, in order. -/
theorem accessCheckIsTheDecisionTable : Obligations.AccessCheckIsTheDecisionTable := by
  intro c e dir
  cases hEL : e.pstateEL with
  | el0 => rw [decisionTable, firstRow_cons_true, accessCheck, hEL]
  | el1 =>
    simp (disch := decide) only [decisionTable, firstRow_cons_of_ne, firstRow_cons_self, firstRow_cons_true,
      ite_and_eq_ite_ite, fineGrainedTrap_iff, accessCheck_el1 hEL, apply_ite some]
  | el2 =>
    simp (disch := decide) only [decisionTable, firstRow_cons_of_ne, firstRow_cons_self, firstRow_cons_true,
      ite_and_eq_ite_ite, accessCheck_el2 hEL, apply_ite some]
  | el3 =>
    simp (disch := decide) only [decisionTable, firstRow_cons_of_ne, firstRow_cons_self, firstRow_cons_true,
      accessCheck_el3 hEL, apply_ite some]

/-- The access check reads the direction through the fine-grained arm alone (R104). -/
theorem accessCheck_congr_dir {c : Config} {e : Env} {d d' : Dir}
    (h : fineGrainedTraps c e d = fineGrainedTraps c e d') : accessCheck c e d = accessCheck c e d' := by
  simp only [accessCheck, checkEL1, h]

/-- Settles O17: with equal controls the fine-grained arms agree; and wherever another level, an earlier arm or another
term of the fine-grained arm decides, the two checks are equal. -/
theorem readAndWriteChecksDifferOnlyFineGrained : Obligations.ReadAndWriteChecksDifferOnlyFineGrained := by
  intro c e
  refine ⟨fun hControl => accessCheck_congr_dir ?_, fun hDiffer => ?_⟩
  · simp only [fineGrainedTraps, fineGrainedControl, hControl]
  have hEL : e.pstateEL = .el1 := by
    by_contra hOther
    apply hDiffer
    unfold accessCheck
    cases h : e.pstateEL with
    | el1 => exact absurd h hOther
    | el0 | el2 | el3 => rfl
  have hTerms : e.el2Enabled = true ∧ c.featFGT = true ∧ (c.haveEL3 = false ∨ e.scrEL3FGTEn = 1#1) := by
    by_contra hQuiet
    have hFalse : ∀ d, fineGrainedTraps c e d = false := fun d =>
      Bool.eq_false_iff.2 fun hTraps => by
        obtain ⟨hEnabled, hFGT, hEn, _⟩ := (fineGrainedTraps_iff c e d).1 hTraps
        exact hQuiet ⟨hEnabled, hFGT, hEn⟩
    exact hDiffer (accessCheck_congr_dir ((hFalse _).trans (hFalse _).symm))
  rw [accessCheck_el1 hEL, accessCheck_el1 hEL] at hDiffer
  have hPriority : ¬ (c.haveEL3 = true ∧ e.el3SDDUndefPriority = true ∧ e.cptrEL3TTA = 1#1) := fun h =>
    hDiffer (by rw [if_pos h, if_pos h])
  rw [if_neg hPriority, if_neg hPriority] at hDiffer
  have hEL1 : e.cpacrEL1TTA ≠ 1#1 := fun h => hDiffer (by rw [if_pos h, if_pos h])
  rw [if_neg hEL1, if_neg hEL1] at hDiffer
  have hEL2 : ¬ (e.el2Enabled = true ∧ e.cptrEL2TTA = 1#1) := fun h => hDiffer (by rw [if_pos h, if_pos h])
  exact ⟨hEL, hPriority, hEL1, hEL2, hTerms⟩

end Sys2Proof.Machine
end

section
/-! How an access ends: when it completes, when it faults, and what its end depends on (R90, R99, R103). -/

namespace Sys2Proof.Machine

/-- A step that ends with an outcome records it. -/
theorem recordedOutcome_endStep (o : PEOutcome) (s : State) : recordedOutcome (.next (endStep o s)) = some o := rfl

/-- An outcome that records `o` is a next state that holds it. -/
theorem recordedOutcome_eq_some_iff (r : Host.Outcome State Fault Refusal) (o : PEOutcome) :
    recordedOutcome r = some o ↔ ∃ s', r = .next s' ∧ s'.pe = o := by
  cases r <;> simp [recordedOutcome]

/-- An access completes exactly when it is permitted and, for a write, the trace unit is Idle (R90, R97). -/
theorem recordedOutcome_exec_completed_iff (i : Instr) (s : State) :
    recordedOutcome (exec i s) = some .completed
      ↔ AccessPermitted s.cfg s.env i.toMove.dir ∧ (i.toMove.dir = .write → s.env.traceUnitIdle = true) := by
  rcases exec_cases i s with ⟨hNot, o, ho, _, hx⟩ | ⟨t, rfl, hPermitted, hx⟩ | ⟨t, rfl, hPermitted, hIdle, hx⟩
    | ⟨t, rfl, _, hIdle, hx⟩ <;> rw [hx]
  · simp [recordedOutcome, ho, hNot]
  · exact iff_of_true rfl ⟨hPermitted, fun h => nomatch h⟩
  · exact iff_of_true rfl ⟨hPermitted, fun _ => hIdle⟩
  · refine iff_of_false (fun h => nomatch h) fun ⟨_, hNeedsIdle⟩ => ?_
    exact Bool.false_ne_true (hIdle.symm.trans (hNeedsIdle rfl))

/-- How an access ends depends on what the gate answers and, for a write, on the Idle state (R90, R99). -/
theorem recordedOutcome_exec_congr {i : Instr} {s s' : State}
    (hGate : gate s'.cfg s'.env i.toMove.dir = gate s.cfg s.env i.toMove.dir)
    (hIdle : i.toMove.dir = .write → s'.env.traceUnitIdle = s.env.traceUnitIdle) :
    recordedOutcome (exec i s') = recordedOutcome (exec i s) := by
  obtain ⟨hUndefined, hTrap, hHalt⟩ := exec_of_gate i s
  obtain ⟨hUndefined', hTrap', hHalt'⟩ := exec_of_gate i s'
  rw [hGate] at hUndefined' hTrap' hHalt'
  cases hg : gate s.cfg s.env i.toMove.dir with
  | undefined => rw [hUndefined hg, hUndefined' hg, recordedOutcome_endStep, recordedOutcome_endStep]
  | trap el => rw [hTrap el hg, hTrap' el hg, recordedOutcome_endStep, recordedOutcome_endStep]
  | halt => rw [hHalt hg, hHalt' hg, recordedOutcome_endStep, recordedOutcome_endStep]
  | proceed =>
    have hPermitted := (gate_proceed_iff _ _ _).1 hg
    have hPermitted' := (gate_proceed_iff _ _ _).1 (hGate.trans hg)
    cases i with
    | mrsTrciteedcr t =>
      rw [exec_mrs_of_permitted hPermitted, exec_mrs_of_permitted hPermitted', recordedOutcome_endStep,
        recordedOutcome_endStep]
    | msrTrciteedcr t =>
      rw [exec_msr_of_permitted hPermitted, exec_msr_of_permitted hPermitted', hIdle rfl]
      split
      · rw [recordedOutcome_endStep, recordedOutcome_endStep]
      · rfl

/-- Settles O16: the next states that record Completed are those of a permitted access, for a write with the trace unit
Idle. -/
theorem accessCompletesExactlyWhenPermitted : Obligations.AccessCompletesExactlyWhenPermitted := by
  intro t s
  rw [← recordedOutcome_eq_some_iff, ← recordedOutcome_eq_some_iff, recordedOutcome_exec_completed_iff,
    recordedOutcome_exec_completed_iff]
  simp [Instr.toMove]

/-- Settles O18: no check reads the three inputs, so the gate answers the same at both states; and whether an access
completes names no `t`. -/
theorem outcomeIgnoresDataAndTraceInputs : Obligations.OutcomeIgnoresDataAndTraceInputs := by
  intro s₁ s₂ t u selfHosted idle ito hCfg hEnv
  have hGate : ∀ dir, gate s₂.cfg s₂.env dir = gate s₁.cfg s₁.env dir := by
    intro dir
    rw [hCfg, hEnv]
    rfl
  have hIdle₂ : s₂.env.traceUnitIdle = idle := by rw [hEnv]
  have hRead : ∀ v, recordedOutcome (exec (.mrsTrciteedcr v) s₂) = recordedOutcome (exec (.mrsTrciteedcr v) s₁) :=
    fun _ => recordedOutcome_exec_congr (hGate _) (fun h => nomatch h)
  have hWrite : idle = s₁.env.traceUnitIdle → ∀ v,
      recordedOutcome (exec (.msrTrciteedcr v) s₂) = recordedOutcome (exec (.msrTrciteedcr v) s₁) :=
    fun hIdle _ => recordedOutcome_exec_congr (hGate _) (fun _ => hIdle₂.trans hIdle)
  refine ⟨hRead t, fun hIdle => hWrite hIdle t, ?_, fun hIdle => ?_⟩
  · rw [hRead u, recordedOutcome_exec_completed_iff, recordedOutcome_exec_completed_iff]
    rfl
  · rw [hWrite hIdle u, recordedOutcome_exec_completed_iff, recordedOutcome_exec_completed_iff]
    rfl

/-- Settles O22: of everything an accessor can do only the write that finds the trace unit not Idle gives no next
state. -/
theorem accessorStopsOnlyOnWriteNotIdle : Obligations.AccessorStopsOnlyOnWriteNotIdle := by
  intro i s
  rcases exec_cases i s with ⟨hNot, o, _, _, hx⟩ | ⟨t, rfl, _, hx⟩ | ⟨t, rfl, _, hIdle, hx⟩
    | ⟨t, rfl, hPermitted, hIdle, hx⟩ <;> rw [hx] <;> refine ⟨fun r h => (nomatch h), ?_⟩
  · refine iff_of_false (fun ⟨_, h⟩ => nomatch h) fun ⟨hWrite, hPermitted, _⟩ => hNot ?_
    rwa [hWrite]
  · exact iff_of_false (fun ⟨_, h⟩ => nomatch h) fun ⟨hWrite, _⟩ => nomatch hWrite
  · refine iff_of_false (fun ⟨_, h⟩ => nomatch h) fun ⟨_, _, hNotIdle⟩ => ?_
    exact Bool.false_ne_true (hNotIdle.symm.trans hIdle)
  · exact iff_of_true ⟨_, rfl⟩ ⟨rfl, hPermitted, hIdle⟩

/-- Settles O23: of everything an accessor can do, an outcome other than Completed records only itself, a read writes
`x[t]` alone and counts its draws, and a write replaces only the register. -/
theorem accessorFrame : Obligations.AccessorFrame := by
  intro i s s' h
  rcases exec_cases i s with ⟨_, o, _, _, hx⟩ | ⟨t, rfl, _, hx⟩ | ⟨t, rfl, _, _, hx⟩ | ⟨t, rfl, _, _, hx⟩ <;>
    rw [hx] at h <;> cases h
  · exact ⟨rfl, rfl, rfl, rfl, rfl, rfl, fun _ => ⟨rfl, rfl⟩, fun _ => ⟨rfl, rfl⟩, fun _ _ => rfl⟩
  · exact ⟨rfl, rfl, rfl, rfl, rfl, rfl, nofun, fun _ => ⟨rfl, rfl⟩,
      fun _ hu => XFile.get_put_of_ne _ _ hu⟩
  · exact ⟨rfl, rfl, rfl, rfl, rfl, rfl, fun _ => ⟨rfl, rfl⟩, nofun, fun _ _ => rfl⟩

end Sys2Proof.Machine
end

section
/-! The two transfers: what a permitted read delivers and what a permitted write stores (R96, R97). -/

namespace Sys2Proof.Machine

/-- No bit above RL is a field (R21). -/
theorem fieldAt_of_ge (c : Config) {j : Nat} (hj : 7 ≤ j) : fieldAt c j = false := by
  obtain ⟨n, rfl⟩ := Nat.exists_eq_add_of_le' hj
  rfl

/-- WRITABLE_MASK has a 1 exactly at the writable bits, of which none lies above bit 63 (R30). -/
theorem writableMask_getLsbD_eq_writableAt (c : Config) (j : Nat) : (writableMask c).getLsbD j = writableAt c j := by
  rcases Nat.lt_or_ge j 64 with hj | hj
  · exact writableMask_getLsbD c hj
  · rw [BitVec.getLsbD_of_ge _ j hj, writableAt, fieldAt_of_ge c (by omega), BitVec.getLsbD_of_ge _ j hj, Bool.or_self]

/-- `Stored` keeps the writable bits and drops the others (R30, R98). -/
theorem stored_getLsbD (c : Config) (v : Word) (j : Nat) : (stored c v).getLsbD j = (v.getLsbD j && writableAt c j) := by
  rw [stored, BitVec.getLsbD_and, writableMask_getLsbD_eq_writableAt]

/-- Storing what a reader saw keeps it: the view is already masked (R43, R98). -/
theorem stored_viewNow (r : Trc) (s : State) : stored s.cfg (viewNow r s) = viewNow r s := by
  simp only [stored, viewNow, view, BitVec.and_assoc, BitVec.and_self]

/-- A reader sees 0 in every bit that is not writable, whatever it draws (R43). -/
theorem viewNow_getLsbD_of_not_writable (r : Trc) {s : State} {j : Nat} (h : writableAt s.cfg j = false) :
    (viewNow r s).getLsbD j = false := by
  rw [← stored_viewNow, stored_getLsbD, h, Bool.and_false]

/-- A reader of a settled register that keeps its invariant sees the stored value (R43). -/
theorem viewNow_of_settled {s : State} (hOk : TrcOk s.cfg s.trc) (hLo : s.trc.settledLo = true)
    (hHi : s.trc.settledHi = true) : viewNow s.trc s = s.trc.value := by
  obtain ⟨hMask, _⟩ := hOk
  exact view_of_settled _ _ _ _ hMask hLo hHi

/-- Writing what is stored as a settled register's own value leaves that register (R97). -/
theorem Trc.write_eq_of_stored_eq {c : Config} {v : Word} {r : Trc} (hStored : stored c v = r.value)
    (hLo : r.settledLo = true) (hHi : r.settledHi = true) : Trc.write c v = r := by
  rw [Trc.write, hStored]
  exact congrArg₂ (Trc.mk r.value) hLo.symm hHi.symm

/-- What `exec` answers for a permitted write while the trace unit is Idle (R97). -/
theorem exec_msr_of_idle {t : RegNum} {s : State} (hPermitted : AccessPermitted s.cfg s.env .write)
    (hIdle : s.env.traceUnitIdle = true) :
    exec (.msrTrciteedcr t) s = .next (endStep .completed (storeTrc (Trc.write s.cfg (readX t s)) s)) := by
  rw [exec_msr_of_permitted hPermitted, if_pos hIdle]

/-- Settles O24: the read is one write of `x[t]`, which the zero register discards. -/
theorem mrsCompletes : Obligations.MrsCompletes := by
  intro t s hPermitted
  refine ⟨_, exec_mrs_of_permitted hPermitted, fun ht => XFile.get_put_self_of_ne _ _ ht, ?_,
    fun _ hu => XFile.get_put_of_ne _ _ hu, rfl⟩
  rintro rfl
  exact XFile.put_zeroRegister s.x (viewNow s.trc s)

/-- Settles O25: the read delivers the view, and the view of a settled register is its value. -/
theorem mrsDeliversTheStoredValue : Obligations.MrsDeliversTheStoredValue := by
  intro t s hPermitted hOk hLo hHi ht
  obtain ⟨s', hExec, _, _, _, hRead, _⟩ := exec_mrs_delivers hPermitted ht
  exact ⟨s', hExec, hRead.trans (viewNow_of_settled hOk hLo hHi)⟩

/-- Settles O27: the read delivers the view, and without RES0 storage only fields are writable. -/
theorem mrsDeliversOnlyWritableBits : Obligations.MrsDeliversOnlyWritableBits := by
  intro t s hPermitted ht
  obtain ⟨s', hExec, _, _, _, hRead, _⟩ := exec_mrs_delivers hPermitted ht
  refine ⟨s', hExec, fun j hj => ?_, fun hMask j hj => ?_⟩ <;> rw [hRead]
  · exact viewNow_getLsbD_of_not_writable _ hj
  · refine viewNow_getLsbD_of_not_writable _ ?_
    rw [writableAt, fieldAt_of_ge _ hj, hMask, BitVec.getLsbD_zero, Bool.or_self]

/-- Settles O28: the write stores `Stored(x[t])` and records Completed. -/
theorem msrCompletes : Obligations.MsrCompletes := by
  intro t s hPermitted hIdle
  exact exec_msr_of_idle hPermitted hIdle

/-- Settles O29: the writable bits are the fields and the bits of the storage mask. -/
theorem storedKeepsExactlyTheWritableBits : Obligations.StoredKeepsExactlyTheWritableBits := by
  intro c v j
  exact stored_getLsbD c v j

/-- Settles O34: the read leaves the stored value in `x[t]` and the write permitted, and storing that value changes no
bit of it. -/
theorem writingBackTheValueReadChangesNothing : Obligations.WritingBackTheValueReadChangesNothing := by
  intro t s hRead hWrite hIdle hOk hLo hHi ht
  obtain ⟨s₁, hExec₁, hCfg, hEnv, _, hValue, _⟩ := exec_mrs_delivers hRead ht
  rw [← hCfg, ← hEnv] at hWrite
  rw [← hEnv] at hIdle
  refine ⟨s₁, _, hExec₁, exec_msr_of_idle hWrite hIdle, ?_⟩
  have hStored : stored s₁.cfg (readX t s₁) = s.trc.value := by
    rw [hCfg, hValue, stored_viewNow, viewNow_of_settled hOk hLo hHi]
  exact Trc.write_eq_of_stored_eq hStored hLo hHi

end Sys2Proof.Machine
end

section
/-! How an access that does not complete ends: the outcome recorded, the control it comes from, and the hook it waits
for (R121 to R123, R127, R128, R136). -/

namespace Sys2Proof.Machine

/-- Everything a next state of an accessor can be: that of a completed access, or the old state with the outcome that
the gate answers (R90, R136). -/
theorem exec_next_cases {i : Instr} {s s' : State} (h : exec i s = .next s') :
    s'.pe = .completed
      ∨ (gate s.cfg s.env i.toMove.dir = .undefined ∧ s' = endStep .undefined s)
      ∨ (∃ el, gate s.cfg s.env i.toMove.dir = .trap el
          ∧ s' = endStep (.systemAccessTrap el trapCode i.toMove.dir i.toMove.t) s)
      ∨ (gate s.cfg s.env i.toMove.dir = .halt ∧ s' = endStep (.halt .softwareAccess) s) := by
  obtain ⟨hUndefined, hTrap, hHalt⟩ := exec_of_gate i s
  cases hg : gate s.cfg s.env i.toMove.dir with
  | undefined => cases h.symm.trans (hUndefined hg); exact .inr (.inl ⟨rfl, rfl⟩)
  | trap el => cases h.symm.trans (hTrap el hg); exact .inr (.inr (.inl ⟨el, rfl, rfl⟩))
  | halt => cases h.symm.trans (hHalt hg); exact .inr (.inr (.inr ⟨rfl, rfl⟩))
  | proceed =>
    have hPermitted := (gate_proceed_iff _ _ _).1 hg
    rcases exec_cases i s with ⟨hNot, _⟩ | ⟨t, _, _, hx⟩ | ⟨t, _, _, _, hx⟩ | ⟨t, _, _, _, hx⟩
    · exact absurd hPermitted hNot
    · cases h.symm.trans hx; exact .inl rfl
    · cases h.symm.trans hx; exact .inl rfl
    · cases h.symm.trans hx

/-- Settles O21: each next state that is not Completed is the old state with the outcome recorded. -/
theorem outcomesArePrecise : Obligations.OutcomesArePrecise := by
  intro i s s' h hNot
  rcases exec_next_cases h with hCompleted | ⟨_, rfl⟩ | ⟨_, _, rfl⟩ | ⟨_, rfl⟩
  · exact absurd hCompleted hNot
  all_goals rfl

/-- A recorded trap is the gate's, with the constant code and the access's own direction and `t` (R122). -/
theorem gate_trap_of_exec {i : Instr} {s s' : State} {el : EL} {code : Nat} {d : Dir} {t : RegNum}
    (h : exec i s = .next s') (hTrap : s'.pe = .systemAccessTrap el code d t) :
    gate s.cfg s.env i.toMove.dir = .trap el ∧ code = 0x18 ∧ d = i.toMove.dir ∧ t = i.toMove.t := by
  rcases exec_next_cases h with hCompleted | ⟨_, rfl⟩ | ⟨_, hGate, rfl⟩ | ⟨_, rfl⟩
  · cases hCompleted.symm.trans hTrap
  · cases hTrap
  · cases hTrap; exact ⟨hGate, rfl, rfl, rfl⟩
  · cases hTrap

/-- A recorded halt is the gate's, with the one reason there is (R123). -/
theorem gate_halt_of_exec {i : Instr} {s s' : State} {r : HaltReason} (h : exec i s = .next s')
    (hHalt : s'.pe = .halt r) : gate s.cfg s.env i.toMove.dir = .halt ∧ r = .softwareAccess := by
  rcases exec_next_cases h with hCompleted | ⟨_, rfl⟩ | ⟨_, _, rfl⟩ | ⟨hGate, rfl⟩
  · cases hCompleted.symm.trans hHalt
  · cases hHalt
  · cases hHalt
  · cases hHalt; exact ⟨hGate, rfl⟩

/-- What R123 and R128 ask of an access that the access check answers with `k`: a trap to `el` comes from a control that
R128 lists for that target, none for EL0, and a halt from the conditions of R123. -/
def AnswerControl (c : Config) (e : Env) (dir : Dir) : Check → Prop
  | .proceed => True
  | .undefined => True
  | .trap .el0 => False
  | .trap .el1 => e.pstateEL = .el1 ∧ e.cpacrEL1TTA = 1#1
  | .trap .el2 => (e.pstateEL = .el1 ∧ e.el2Enabled = true ∧ e.cptrEL2TTA = 1#1)
      ∨ (e.pstateEL = .el1 ∧ FineGrainedTrap c e dir) ∨ (e.pstateEL = .el2 ∧ e.cptrEL2TTA = 1#1)
  | .trap .el3 => e.cptrEL3TTA = 1#1 ∧ (e.pstateEL = .el3 ∨ (c.haveEL3 = true ∧ e.el3SDDUndef = false))
  | .halt => HaltOnAccess c e
      ∧ (e.pstateEL = .el1 ∨ ((e.pstateEL = .el2 ∨ e.pstateEL = .el3) ∧ e.el1UsingAArch32 = false))

/-- The trap of the EL3 arm of R93 and R94 comes from its control. -/
theorem answerControl_el3Trap {c : Config} {e : Env} (dir : Dir) (hArm : EL3Trap c e)
    (hSDD : ¬ e.el3SDDUndef = true) : AnswerControl c e dir (.trap .el3) := by
  obtain ⟨hHave, hTTA⟩ := hArm
  exact ⟨hTTA, .inr ⟨hHave, Bool.eq_false_iff.2 hSDD⟩⟩

/-- Each arm of the access check answers from its own control (R92 to R95, R128). -/
theorem answerControl_accessCheck (c : Config) (e : Env) (dir : Dir) :
    AnswerControl c e dir (accessCheck c e dir) := by
  cases hEL : e.pstateEL with
  | el0 => rw [accessCheck, hEL]; trivial
  | el1 =>
    rw [accessCheck_el1 hEL]
    split_ifs with _ hTTA hTTA2 hFine hEL3 hSDD hHalt
    · trivial
    · exact ⟨hEL, hTTA⟩
    · exact .inl ⟨hEL, hTTA2⟩
    · exact .inr (.inl ⟨hEL, (fineGrainedTrap_iff c e dir).2 hFine⟩)
    · trivial
    · exact answerControl_el3Trap dir hEL3 hSDD
    · exact ⟨hHalt, .inl hEL⟩
    · trivial
  | el2 =>
    rw [accessCheck_el2 hEL]
    split_ifs with _ hTTA2 hEL3 hSDD hHalt
    · trivial
    · exact .inr (.inr ⟨hEL, hTTA2⟩)
    · trivial
    · exact answerControl_el3Trap dir hEL3 hSDD
    · obtain ⟨hAArch64, hConditions⟩ := hHalt
      exact ⟨hConditions, .inr ⟨.inl hEL, hAArch64⟩⟩
    · trivial
  | el3 =>
    rw [accessCheck_el3 hEL]
    split_ifs with hTTA3 hHalt
    · exact ⟨hTTA3, .inl hEL⟩
    · obtain ⟨hAArch64, hConditions⟩ := hHalt
      exact ⟨hConditions, .inr ⟨.inr hEL, hAArch64⟩⟩
    · trivial

/-- Settles O20: a recorded trap or halt is the access check's answer, which comes from its control. -/
theorem trapsComeFromTheirControls : Obligations.TrapsComeFromTheirControls := by
  intro i s s' h
  have hControl := answerControl_accessCheck s.cfg s.env i.toMove.dir
  refine ⟨fun el code d t hTrap => ?_, fun r hHalt => ?_⟩
  · obtain ⟨hGate, hCode, hDir, hT⟩ := gate_trap_of_exec h hTrap
    rw [gate_trap hGate] at hControl
    refine ⟨hCode, hDir, hT, accessCheck_trap_ne_el0 (gate_trap hGate), fun hEL0 => ?_, ?_, ?_, ?_⟩
    · cases hGate.symm.trans (gate_el0 hEL0 _ _)
    all_goals rintro rfl; exact hControl
  · obtain ⟨hGate, hReason⟩ := gate_halt_of_exec h hHalt
    rw [gate_halt hGate] at hControl
    exact ⟨hReason, hControl⟩

/-- The gate traps exactly when the access check does, unless an absent register ends the step before it (R91, D4). -/
theorem gate_trap_iff (c : Config) (e : Env) (dir : Dir) (el : EL) :
    gate c e dir = .trap el ↔ accessCheck c e dir = .trap el ∧ (c.absentBeforeTraps = true → RegisterPresent c) := by
  rw [← present_iff]
  unfold gate presenceCheck
  cases c.absentBeforeTraps <;> cases present c <;> cases accessCheck c e dir <;> simp [Check.andThen]

/-- Settles O19: the trap at EL1 shows that the register is not found absent first and that arm 1, which EL1 and EL2
share, is quiet; so at EL2 the next arm, `CPTR_EL2.TTA`, traps. -/
theorem handlerAccessTrapsAgain : Obligations.HandlerAccessTrapsAgain := by
  intro i s hEL _ hTTA hFirst
  obtain ⟨hGate, _⟩ := gate_trap_of_exec hFirst rfl
  obtain ⟨hCheck, hFound⟩ := (gate_trap_iff _ _ _ _).1 hGate
  have hQuiet : ¬ (s.cfg.haveEL3 = true ∧ s.env.el3SDDUndefPriority = true ∧ s.env.cptrEL3TTA = 1#1) := by
    intro hPriority
    rw [accessCheck_el1 hEL, if_pos hPriority] at hCheck
    cases hCheck
  have hCheck₂ : accessCheck s.cfg { s.env with pstateEL := .el2 } i.toMove.dir = .trap .el2 := by
    rw [accessCheck_el2 rfl, if_neg hQuiet, if_pos hTTA]
  obtain ⟨_, hTrap, _⟩ := exec_of_gate i { s with env := { s.env with pstateEL := .el2 } }
  exact hTrap .el2 ((gate_trap_iff _ _ _ _).2 ⟨hCheck₂, hFound⟩)

/-- A word presented while an outcome is with its hook is refused (R121 to R123, log 18). -/
theorem runEvent_fetch_of_pending {s : State} (w : InsnWord) (h : s.pe ≠ .completed) :
    runEvent (.fetch w) s = .refused (.peNotRunning s.pe) := by
  rw [runEvent, fetch, if_neg h]

/-- The hook of a pending `Undefined` returns (R121). -/
theorem runEvent_takeUndefined_of_pending {s : State} (env : Env) (x : XFile) (h : s.pe = .undefined) :
    runEvent (.takeUndefined env x) s = .next (returnFromHook env x s) := by
  rw [runEvent, takeUndefined, h]

/-- The hook of a pending `SystemAccessTrap` returns (R122). -/
theorem runEvent_takeSystemAccessTrap_of_pending {s : State} (env : Env) (x : XFile) {el : EL} {code : Nat} {d : Dir}
    {t : RegNum} (h : s.pe = .systemAccessTrap el code d t) :
    runEvent (.takeSystemAccessTrap env x) s = .next (returnFromHook env x s) := by
  rw [runEvent, takeSystemAccessTrap, h]

/-- The hook of a pending `Halt` returns (R123). -/
theorem runEvent_resumeFromHalt_of_pending {s : State} (env : Env) (x : XFile) {r : HaltReason} (h : s.pe = .halt r) :
    runEvent (.resumeFromHalt env x) s = .next (returnFromHook env x s) := by
  rw [runEvent, resumeFromHalt, h]

/-- Settles O7: the step takes the event off the agenda; a presented word is then refused, and the hook of the pending
outcome returns. -/
theorem pendingOutcomeWaitsForItsHook : Obligations.PendingOutcomeWaitsForItsHook := by
  intro s w rest env x hPending
  refine ⟨fun h => ?_, fun h hUndefined => ?_, fun el code d t h hTrap => ?_, fun r h hHalt => ?_⟩ <;> rw [step_cons h]
  · exact runEvent_fetch_of_pending w hPending
  · exact runEvent_takeUndefined_of_pending env x hUndefined
  · exact runEvent_takeSystemAccessTrap_of_pending env x hTrap
  · exact runEvent_resumeFromHalt_of_pending env x hHalt

end Sys2Proof.Machine
end

section
/-! Decoding inverts encoding, and the rows of the opcode table (R73 to R75). -/

namespace Sys2Proof

/-- A word is put together again from the fields that R74 cuts it into. -/
theorem append_fields_eq (w : InsnWord) :
    w.extractLsb' 22 10 ++ w.extractLsb' 21 1 ++ w.extractLsb' 19 2 ++ w.extractLsb' 16 3 ++ w.extractLsb' 12 4
      ++ w.extractLsb' 8 4 ++ w.extractLsb' 5 3 ++ w.extractLsb' 0 5 = w := by
  simp (disch := decide) only [BitVec.extractLsb'_append_extractLsb'_eq_extractLsb']
  exact BitVec.extractLsb'_eq_self

/-- The direction read from the `L` bit has that bit (R74). -/
theorem Dir.bit_ite (b : BitVec 1) : (if b = 1#1 then Dir.read else Dir.write).bit = b := by
  revert b
  decide

/-- A word splits into a move exactly when it is that move's word, which only a move with `op0 = 0b1x` has (R74). -/
theorem splitMove_eq_some_iff (w : InsnWord) (m : SysMove) :
    splitMove w = some m ↔ m.op0.getLsbD 1 = true ∧ w = m.encode := by
  refine ⟨fun h => ?_, ?_⟩
  · have hFixed : w.extractLsb' 22 10 = 0b1101010100#10 ∧ w.extractLsb' 20 1 = 1#1 := by
      by_contra hOther
      rw [splitMove, if_neg hOther] at h
      cases h
    rw [splitMove, if_pos hFixed] at h
    obtain ⟨hTop, hBit20⟩ := hFixed
    cases h
    refine ⟨?_, ?_⟩
    · have hBit := congrArg (BitVec.getLsbD · 0) hBit20
      simpa using hBit
    · rw [SysMove.encode, Dir.bit_ite, ← hTop, append_fields_eq]
  · rintro ⟨hOp0, rfl⟩
    exact splitMove_encode hOp0

/-- A move stands for an accessor exactly when it is that accessor's move (R70, R73). -/
theorem SysMove.toInstr?_eq_some_iff (m : SysMove) (i : Instr) : m.toInstr? = some i ↔ m = i.toMove := by
  refine ⟨fun h => ?_, ?_⟩
  · have hAccessor : m.isAccessor = true := by
      by_contra hOther
      rw [SysMove.toInstr?, if_neg hOther] at h
      cases h
    rw [SysMove.toInstr?, if_pos hAccessor] at h
    rw [SysMove.isAccessor_iff] at hAccessor
    obtain ⟨dir, op0, op1, crn, crm, op2, t⟩ := m
    obtain ⟨rfl, rfl, rfl, rfl, rfl⟩ := hAccessor
    cases dir <;> cases h <;> rfl
  · rintro rfl
    cases i <;> rfl

/-- A word decodes to an accessor exactly when it splits into that accessor's move (R73). -/
theorem decode_eq_ok_iff (w : InsnWord) (i : Instr) : decode w = .ok i ↔ splitMove w = some i.toMove := by
  cases hSplit : splitMove w with
  | none => simp [decode, hSplit]
  | some m =>
    rw [Option.some_inj, ← SysMove.toInstr?_eq_some_iff]
    cases hInstr : m.toInstr? <;> simp [decode, hSplit, hInstr]

/-- Settles O3: the word of an accessor is the one word that splits into its move. -/
theorem decodeAndEncodeAgree : Obligations.DecodeAndEncodeAgree := by
  intro w i
  have hOp0 : i.toMove.op0.getLsbD 1 = true := by cases i <;> simp [Instr.toMove]
  rw [decode_eq_ok_iff, splitMove_eq_some_iff, encode, and_iff_right hOp0]

/-- A word is determined by its bits under the mask of R75 and its bits 4:0. -/
theorem eq_of_row_eq_of_t_eq {v w : InsnWord} (hRow : v &&& 0xFFFFFFE0#32 = w &&& 0xFFFFFFE0#32)
    (hT : v.extractLsb' 0 5 = w.extractLsb' 0 5) : v = w := by
  have hMask : ∀ j < 32, (0xFFFFFFE0#32).getLsbD j = decide (5 ≤ j) := by decide
  apply BitVec.eq_of_getLsbD_eq
  intro j hj
  rcases Nat.lt_or_ge j 5 with h | h
  · simpa [h] using congrArg (BitVec.getLsbD · j) hT
  · simpa [hMask j hj, h] using congrArg (BitVec.getLsbD · j) hRow

/-- A word is an accessor's exactly when it lies on the accessor's row with its `t` in bits 4:0 (R75). -/
theorem decode_eq_ok_iff_row {i : Instr} {row : InsnWord} (hRow : encode i &&& 0xFFFFFFE0#32 = row)
    (hT : (encode i).extractLsb' 0 5 = i.toMove.t) (w : InsnWord) :
    decode w = .ok i ↔ w &&& 0xFFFFFFE0#32 = row ∧ i.toMove.t = w.extractLsb' 0 5 := by
  rw [decodeAndEncodeAgree w i, ← hRow, ← hT]
  exact ⟨fun h => h ▸ ⟨rfl, rfl⟩, fun ⟨hMasked, hLow⟩ => eq_of_row_eq_of_t_eq hMasked hLow.symm⟩

/-- Settles O2: the word of each accessor lies on its row. -/
theorem wordIsAccessorExactlyOnItsRow : Obligations.WordIsAccessorExactlyOnItsRow := by
  intro w t
  obtain ⟨_, hReadRow, hReadT⟩ := Laws.Encoding.mrsTrciteedcr t
  obtain ⟨_, hWriteRow, hWriteT⟩ := Laws.Encoding.msrTrciteedcr t
  exact ⟨decode_eq_ok_iff_row hReadRow hReadT w, decode_eq_ok_iff_row hWriteRow hWriteT w⟩

/-- Settles O1: nine closed words, by evaluation. -/
theorem tableWordsDecode : Obligations.TableWordsDecode := by
  unfold Obligations.TableWordsDecode
  decide

end Sys2Proof
end

section
/-! What a step leaves in the register, the X registers, the configuration and the agenda, and the invariant that every
step keeps (R9, R18, R30, R42, R43, R55). -/

namespace Sys2Proof.Machine

/-- The register after reset meets its invariant: nothing is stored and neither half is settled (R151). -/
theorem trcOk_reset (c : Config) : TrcOk c Trc.reset :=
  ⟨BitVec.zero_and, nofun, fun _ => rfl, fun _ => rfl⟩

/-- A write keeps the invariant of the machine when what it leaves meets the register's: the contents before it, which
stay visible, met it too (R66). -/
theorem stateInv_storeTrc {s : State} {r : Trc} (hInv : StateInv s) (hTrc : TrcOk s.cfg r) :
    StateInv (storeTrc r s) := by
  obtain ⟨hMask, hOld, hVisible, hPe⟩ := hInv
  exact ⟨hMask, hTrc, List.forall_mem_cons.2 ⟨hOld, hVisible⟩, hPe⟩

/-- Ending a step with an outcome that the checks can give keeps the invariant (R120). -/
theorem stateInv_endStep {s : State} {o : PEOutcome} (hInv : StateInv s) (hOutcome : outcomeOk o = true) :
    StateInv (endStep o s) := by
  obtain ⟨hMask, hTrc, hVisible, _⟩ := hInv
  exact ⟨hMask, hTrc, hVisible, hOutcome⟩

/-- An accessor keeps the invariant. -/
theorem exec_keeps_stateInv {i : Instr} {s s' : State} (hInv : StateInv s) (h : exec i s = .next s') : StateInv s' := by
  rcases exec_cases i s with ⟨_, o, _, hOutcome, hx⟩ | ⟨t, _, _, hx⟩ | ⟨t, _, _, _, hx⟩ | ⟨t, _, _, _, hx⟩ <;>
    rw [hx] at h <;> cases h
  · exact stateInv_endStep hInv hOutcome
  · exact stateInv_endStep hInv rfl
  · exact stateInv_endStep (stateInv_storeTrc hInv (trcOk_write _ _)) rfl

/-- Settles O47: an accessor keeps the invariant, a write leaves contents that meet it, and every other step leaves the
register as it was or as after reset. -/
theorem stepKeepsStateInv : Obligations.StepKeepsStateInv := by
  intro s s' hInv hStep
  obtain ⟨hMask, hTrc, hVisible, hPe⟩ := hInv
  rcases step_cases hStep with ⟨rfl, _⟩ | ⟨e, rest, _, hEvent⟩
  · exact ⟨hMask, hTrc, hVisible, hPe⟩
  have hInvRest : StateInv { s with agenda := rest } := ⟨hMask, hTrc, hVisible, hPe⟩
  rcases hEvent with ⟨w, i, _, _, _, hExec⟩ | ⟨a, _, hs⟩ | ⟨a, w, _, ⟨_, _, _, _, hs⟩ | hs⟩ | ⟨ss, el, _, hs⟩
    | ⟨_, hs⟩ | ⟨_, hs⟩ | ⟨env, x, _, o, hOutcome, hs⟩
  · exact exec_keeps_stateInv hInvRest hExec
  all_goals rw [hs]
  · exact hInvRest
  · exact stateInv_storeTrc hInvRest (trcOk_writeLow _ _ _ hTrc)
  · exact hInvRest
  · exact hInvRest
  · exact ⟨hMask, hTrc, List.forall_mem_nil _, hPe⟩
  · exact ⟨hMask, trcOk_reset _, hVisible, hPe⟩
  · refine ⟨hMask, hTrc, hVisible, ?_⟩
    rcases hOutcome with rfl | rfl
    · exact hPe
    · rfl

/-- Settles O46: nothing is stored, nothing stays visible, and the storage mask is empty. -/
theorem resetStateMeetsTheInvariant : Obligations.ResetStateMeetsTheInvariant :=
  ⟨⟨BitVec.zero_and, trcOk_reset _, List.forall_mem_nil _, rfl⟩, rfl, rfl, rfl, rfl⟩

/-- A step keeps the configuration (R9) and takes the first event, if there is one, off the agenda (R62). -/
theorem step_cfg_and_agenda {s s' : State} (h : step s = .next s') :
    s'.cfg = s.cfg ∧ s'.agenda = s.agenda.tail := by
  rcases step_cases h with ⟨rfl, hNil⟩ | ⟨e, rest, hAgenda, hEvent⟩
  · exact ⟨rfl, by rw [hNil, List.tail_nil]⟩
  rw [hAgenda, List.tail_cons]
  rcases hEvent with ⟨w, i, _, _, _, hExec⟩ | ⟨a, _, hs⟩ | ⟨a, w, _, ⟨_, _, _, _, hs⟩ | hs⟩ | ⟨ss, el, _, hs⟩
    | ⟨_, hs⟩ | ⟨_, hs⟩ | ⟨env, x, _, o, _, hs⟩
  · obtain ⟨_, hCfg, hRest, _⟩ := accessorFrame i _ _ hExec
    exact ⟨hCfg, hRest⟩
  all_goals rw [hs]; exact ⟨rfl, rfl⟩

/-- Settles O48: one half of what every step keeps. -/
theorem stepKeepsTheConfiguration : Obligations.StepKeepsTheConfiguration := by
  intro s s' hStep
  obtain ⟨hCfg, _⟩ := step_cfg_and_agenda hStep
  exact hCfg

/-- What an accessor leaves in the register: what was there, or what a permitted write while Idle stores (R59, R97,
R136). -/
theorem exec_trc_cases {i : Instr} {s s' : State} (h : exec i s = .next s') :
    s'.trc = s.trc ∨ ∃ t, i = .msrTrciteedcr t ∧ AccessPermitted s.cfg s.env .write ∧ s.env.traceUnitIdle = true
      ∧ s'.trc = Trc.write s.cfg (readX t s) := by
  rcases exec_cases i s with ⟨_, o, _, _, hx⟩ | ⟨t, _, _, hx⟩ | ⟨t, hi, hPermitted, hIdle, hx⟩ | ⟨t, _, _, _, hx⟩ <;>
    rw [hx] at h <;> cases h
  · exact .inl rfl
  · exact .inl rfl
  · exact .inr ⟨t, hi, hPermitted, hIdle, rfl⟩

/-- What a step leaves in the register: what was there, or what a reset, an admitted external write while Idle or a
permitted write accessor while Idle leaves (R18, R42). -/
theorem step_trc_cases {s s' : State} (h : step s = .next s') :
    s'.trc = s.trc ∨ ∃ e rest, s.agenda = e :: rest ∧
      (e = .reset
        ∨ (∃ a w, e = .extWrite a w ∧ a.offset = s.cfg.extOffset ∧ a.bits = 32
            ∧ Config.extAccessOk s.trc s.env .write = true ∧ s.env.traceUnitIdle = true
            ∧ s'.trc = Trc.writeLow s.cfg s.trc w)
        ∨ (∃ t, e = .fetch (encode (.msrTrciteedcr t)) ∧ s.pe = .completed
            ∧ AccessPermitted s.cfg s.env .write ∧ s.env.traceUnitIdle = true
            ∧ s'.trc = Trc.write s.cfg (readX t s))) := by
  rcases step_cases h with ⟨rfl, _⟩ | ⟨e, rest, hAgenda, hEvent⟩
  · exact .inl rfl
  rcases hEvent with ⟨w, i, rfl, hPe, hDecode, hExec⟩ | ⟨a, _, hs⟩
    | ⟨a, w, he, ⟨hOffset, hBits, hAdmitted, hIdle, hs⟩ | hs⟩ | ⟨ss, el, _, hs⟩ | ⟨_, hs⟩ | ⟨he, _⟩
    | ⟨env, x, _, o, _, hs⟩
  · rcases exec_trc_cases hExec with hKept | ⟨t, rfl, hPermitted, hIdle, hTrc⟩
    · exact .inl hKept
    · obtain rfl := (decodeAndEncodeAgree w _).1 hDecode
      exact .inr ⟨_, rest, hAgenda, .inr (.inr ⟨t, rfl, hPe, hPermitted, hIdle, hTrc⟩)⟩
  · exact .inl (by rw [hs])
  · exact .inr ⟨e, rest, hAgenda, .inr (.inl ⟨a, w, he, hOffset, hBits, hAdmitted, hIdle, by rw [hs]; rfl⟩)⟩
  · exact .inl (by rw [hs])
  · exact .inl (by rw [hs])
  · exact .inl (by rw [hs])
  · exact .inr ⟨e, rest, hAgenda, .inl he⟩
  · exact .inl (by rw [hs])

/-- Settles O49: of what a step can leave in the register only the writers' contents differ from the old. -/
theorem onlyWritersChangeTheRegister : Obligations.OnlyWritersChangeTheRegister := by
  intro s s' hStep hChanged
  obtain ⟨e, rest, hAgenda, hWriter⟩ := (step_trc_cases hStep).resolve_left hChanged
  refine ⟨e, rest, hAgenda, ?_⟩
  rcases hWriter with hReset | ⟨a, w, he, hOffset, hBits, hAdmitted, hIdle, _⟩ | ⟨t, he, hPe, hPermitted, hIdle, _⟩
  · exact .inl hReset
  · exact .inr (.inl ⟨a, w, he, hOffset, hBits, hAdmitted, hIdle⟩)
  · exact .inr (.inr ⟨t, he, hPe, hPermitted, hIdle⟩)

/-- Settles O52: an external write settles the low half and keeps the high half's flag, and a write accessor settles
both. -/
theorem settledUntilReset : Obligations.SettledUntilReset := by
  intro s s' hStep hNoReset
  rcases step_trc_cases hStep with hKept
    | ⟨e, rest, hAgenda, rfl | ⟨a, w, _, _, _, _, _, hTrc⟩ | ⟨t, _, _, _, _, hTrc⟩⟩
  · rw [hKept]; exact ⟨id, id⟩
  · exact absurd hAgenda (hNoReset rest)
  · rw [hTrc]; exact ⟨fun _ => rfl, id⟩
  · rw [hTrc]; exact ⟨fun _ => rfl, fun _ => rfl⟩

/-- Settles O53: a step takes events off the agenda and adds none, and of the writers the external write is the one that
the premise leaves out. -/
theorem noExternalWritesIsKept : Obligations.NoExternalWritesIsKept := by
  intro s s' hNone hStep
  refine ⟨fun e he => hNone e ?_, fun hChanged => ?_⟩
  · obtain ⟨_, hTail⟩ := step_cfg_and_agenda hStep
    rw [hTail] at he
    exact List.mem_of_mem_tail he
  · obtain ⟨e, rest, hAgenda, rfl | ⟨a, w, rfl, _⟩ | ⟨t, rfl, _⟩⟩ := (step_trc_cases hStep).resolve_left hChanged
    · exact ⟨rest, .inl hAgenda⟩
    · have hExt := hNone (.extWrite a w) (by rw [hAgenda]; exact List.mem_cons_self)
      cases hExt
    · exact ⟨rest, .inr ⟨t, hAgenda⟩⟩

/-- What an accessor leaves in the X registers: what was there, or what a permitted read into a register other than the
zero register leaves, every other register as it was (R96, R97, R136). -/
theorem exec_x_cases {i : Instr} {s s' : State} (h : exec i s = .next s') :
    s'.x = s.x ∨ ∃ t, i = .mrsTrciteedcr t ∧ t ≠ 31#5 ∧ AccessPermitted s.cfg s.env .read
      ∧ ∀ u, u ≠ t → readX u s' = readX u s := by
  rcases exec_cases i s with ⟨_, o, _, _, hx⟩ | ⟨t, hi, hPermitted, hx⟩ | ⟨t, _, _, _, hx⟩ | ⟨t, _, _, _, hx⟩ <;>
    rw [hx] at h <;> cases h
  · exact .inl rfl
  · by_cases ht : t = 31#5
    · subst ht
      exact .inl (XFile.put_zeroRegister s.x (viewNow s.trc s))
    · exact .inr ⟨t, hi, ht, hPermitted, fun _ hu => XFile.get_put_of_ne _ _ hu⟩
  · exact .inl rfl

/-- Settles O50: of the steps a machine can take, each but a read accessor's and the enclosing machine's and its hooks'
keeps the X registers. -/
theorem onlyReadsAndTheEnclosingMachineChangeX : Obligations.OnlyReadsAndTheEnclosingMachineChangeX := by
  intro s s' hStep hChanged
  rcases step_cases hStep with ⟨rfl, _⟩ | ⟨e, rest, hAgenda, hEvent⟩
  · exact absurd rfl hChanged
  refine ⟨e, rest, hAgenda, ?_⟩
  rcases hEvent with ⟨w, i, rfl, hPe, hDecode, hExec⟩ | ⟨a, _, hs⟩ | ⟨a, w, _, ⟨_, _, _, _, hs⟩ | hs⟩ | ⟨ss, el, _, hs⟩
    | ⟨_, hs⟩ | ⟨_, hs⟩ | ⟨env, x, hKind, o, _, hs⟩
  · obtain ⟨t, rfl, ht, hPermitted, hOther⟩ := (exec_x_cases hExec).resolve_left hChanged
    obtain rfl := (decodeAndEncodeAgree w _).1 hDecode
    exact .inl ⟨t, rfl, ht, hPe, hPermitted, hOther⟩
  · exact absurd (by rw [hs]) hChanged
  · exact absurd (by rw [hs, storeTrc_x]) hChanged
  · exact absurd (by rw [hs]) hChanged
  · exact absurd (by rw [hs]) hChanged
  · exact absurd (by rw [hs]) hChanged
  · exact absurd (by rw [hs]) hChanged
  · exact .inr ⟨env, x, by rw [hs], hKind⟩

end Sys2Proof.Machine
end

section
/-! What the PE does with a presented word, and how an access to an absent register ends when the access check stands
first (R73, R91). -/

namespace Sys2Proof.Machine

/-- A presented accessor is run, when no outcome is pending (R73). -/
theorem runEvent_fetch_of_ok {s : State} {w : InsnWord} {i : Instr} (hPe : s.pe = .completed)
    (hDecode : decode w = .ok i) : runEvent (.fetch w) s = exec i s := by
  rw [runEvent, fetch, if_pos hPe, hDecode]

/-- A presented move of another register is refused with its five fields (R73, U10). -/
theorem runEvent_fetch_of_otherRegister {s : State} {w : InsnWord} {op0 : BitVec 2} {op1 op2 : BitVec 3}
    {crn crm : BitVec 4} (hPe : s.pe = .completed) (hDecode : decode w = .otherRegister op0 op1 crn crm op2) :
    runEvent (.fetch w) s = .refused (.sysregNotInSpec op0 op1 crn crm op2) := by
  rw [runEvent, fetch, if_pos hPe, hDecode]

/-- A presented word that is no System register move is refused as that (R4). -/
theorem runEvent_fetch_of_notSysregMove {s : State} {w : InsnWord} (hPe : s.pe = .completed)
    (hDecode : decode w = .notSysregMove) : runEvent (.fetch w) s = .refused (.notSysregMove w) := by
  rw [runEvent, fetch, if_pos hPe, hDecode]

/-- Settles O5: the step takes the event off the agenda and runs the accessor. -/
theorem stepRunsTheDecodedInstruction : Obligations.StepRunsTheDecodedInstruction := by
  intro s w rest i h hPe hDecode
  rw [step_cons h]
  exact runEvent_fetch_of_ok hPe hDecode

/-- Settles O6: the step takes the event off the agenda, and the word is refused by what the decoder calls it. -/
theorem stepRefusesWhatIsNoAccessor : Obligations.StepRefusesWhatIsNoAccessor := by
  intro s w rest h hPe
  rw [step_cons h]
  exact ⟨fun _ _ _ _ _ hDecode => runEvent_fetch_of_otherRegister hPe hDecode,
    fun hDecode => runEvent_fetch_of_notSysregMove hPe hDecode⟩

/-- With the access check first an absent register makes Undefined of what the check lets proceed, and leaves its other
answers (D4, log 10). -/
theorem gate_of_absent_after_traps {c : Config} (hAfter : c.absentBeforeTraps = false) (hAbsent : ¬ RegisterPresent c)
    (e : Env) (dir : Dir) : gate c e dir = (accessCheck c e dir).andThen .undefined := by
  have hPresence : presenceCheck c = .undefined := if_neg (mt (present_iff c).1 hAbsent)
  rw [gate, hAfter, hPresence, if_neg Bool.false_ne_true]

/-- Settles O10: the access ends as the gate answers, for each answer of the access check. -/
theorem absentRegisterAfterTheTraps : Obligations.AbsentRegisterAfterTheTraps := by
  intro i s hAfter hAbsent
  have hEnds := endsAs_gate i s
  rw [gate_of_absent_after_traps hAfter hAbsent] at hEnds
  refine ⟨fun hPass => ?_, fun hCheck => ?_, fun el hCheck => ?_, fun hCheck => ?_⟩
  · rw [(accessCheck_proceed_iff _ _ _).2 hPass] at hEnds
    exact hEnds
  all_goals rw [hCheck] at hEnds; exact hEnds

end Sys2Proof.Machine
end

section
/-! The view bit by bit, and what a write leaves for the reads after it (R43, R62, R97, R99). -/

namespace Sys2Proof.Machine

/-- Settles O26: WRITABLE_MASK keeps the writable bits of the two halves, each stored or drawn. -/
theorem viewBitByBit : Obligations.ViewBitByBit := by
  intro r s j hj
  rw [viewNow, view, BitVec.getLsbD_and, writableMask_getLsbD _ hj, Bool.and_comm, BitVec.getLsbD_append]
  rcases Nat.lt_or_ge j 32 with hLow | hHigh
  · cases r.settledLo <;> simp [hLow]
  · have hIndex : j - 32 < 32 := by omega
    cases r.settledHi <;> simp [Nat.not_lt.2 hHigh, hIndex, Nat.add_sub_cancel' hHigh]

/-- A reader after a write sees what it stored (R43, R97). -/
theorem viewNow_write (v : Word) (s : State) : viewNow (Trc.write s.cfg v) s = stored s.cfg v :=
  view_of_settled _ _ _ _ (stored_within _ _) rfl rfl

/-- Settles O33: the write leaves the checks' inputs and the configuration, so the read is permitted and delivers the
view of what was stored. -/
theorem readAfterWriteReturnsStored : Obligations.ReadAfterWriteReturnsStored := by
  intro t u s hWrite hRead hIdle hu
  obtain ⟨s₂, hExec₂, _, _, _, hValue, _⟩ :=
    exec_mrs_delivers (s := endStep .completed (storeTrc (Trc.write s.cfg (readX t s)) s)) hRead hu
  exact ⟨_, s₂, exec_msr_of_idle hWrite hIdle, hExec₂, hValue.trans (viewNow_write _ _)⟩

/-- The zero register reads as zero (R34). -/
theorem readX_zeroRegister (s : State) : readX 31#5 s = 0#64 := by
  rw [readX, XFile.get, dif_neg (by decide)]

/-- `Stored` of zero is zero (R30). -/
theorem stored_zero (c : Config) : stored c 0#64 = 0#64 :=
  BitVec.zero_and

/-- What a permitted write of the zero register while Idle leaves (R97). -/
theorem exec_msr_zeroRegister {s : State} (hPermitted : AccessPermitted s.cfg s.env .write)
    (hIdle : s.env.traceUnitIdle = true) :
    exec (.msrTrciteedcr 31#5) s
      = .next (endStep .completed (storeTrc { value := 0#64, settledLo := true, settledHi := true } s)) := by
  rw [exec_msr_of_idle hPermitted hIdle, readX_zeroRegister, Trc.write, stored_zero]

/-- Settles O31: the write's next state holds the zero it stored, and its X registers are the old ones. -/
theorem msrFromTheZeroRegisterStoresZero : Obligations.MsrFromTheZeroRegisterStoresZero := by
  intro s hPermitted hIdle
  exact ⟨_, exec_msr_zeroRegister hPermitted hIdle, rfl, rfl⟩

/-- Settles O32: past the checks only the Idle test is left, and it fails. -/
theorem msrWhileNotIdleFaults : Obligations.MsrWhileNotIdleFaults := by
  intro t s hPermitted hNotIdle
  rw [exec_msr_of_permitted hPermitted, hNotIdle, if_neg Bool.false_ne_true]

end Sys2Proof.Machine
end

section
/-! The external debugger's steps, and the storage that both views share (R52 to R57). -/

namespace Sys2Proof.Machine

/-- The shape of an external access as a proposition (R57, R60). -/
theorem wholeWord_iff (c : Config) (a : ExtAccess) : a.wholeWord c = true ↔ a.offset = c.extOffset ∧ a.bits = 32 := by
  simp [ExtAccess.wholeWord]

/-- Settles O36: the shape is the whole word, and admission picks what is returned. -/
theorem externalReadStep : Obligations.ExternalReadStep := by
  intro s a rest h hOffset hBits
  rw [step_cons h, runEvent, extRead, if_pos ((wholeWord_iff _ _).2 ⟨hOffset, hBits⟩)]
  split <;> rfl

/-- An external write of the whole word is tried where it is admitted, and does nothing where not (R54, R55). -/
theorem step_extWrite_wholeWord {s : State} {a : ExtAccess} {w : HalfWord} {rest : List Event}
    (h : s.agenda = .extWrite a w :: rest) (hOffset : a.offset = s.cfg.extOffset) (hBits : a.bits = 32) :
    step s = if Config.extAccessOk s.trc s.env .write then extWriteAdmitted w { s with agenda := rest }
      else .next { s with agenda := rest } := by
  rw [step_cons h, runEvent, extWrite, if_pos ((wholeWord_iff _ _).2 ⟨hOffset, hBits⟩)]

/-- An admitted external write while the trace unit is Idle (R54). -/
theorem extWriteAdmitted_of_idle {s : State} (w : HalfWord) (hIdle : s.env.traceUnitIdle = true) :
    extWriteAdmitted w s = .next (storeTrc (Trc.writeLow s.cfg s.trc w) s) :=
  if_pos hIdle

/-- An admitted external write while the trace unit is not Idle (R54, D11). -/
theorem extWriteAdmitted_of_not_idle {s : State} (w : HalfWord) (hIdle : ¬ s.env.traceUnitIdle = true) :
    extWriteAdmitted w s = .fault .cuWriteNotIdle :=
  if_neg hIdle

/-- An external write leaves the low half's writable bits (R54). -/
theorem Trc.writeLow_getLsbD_low (c : Config) (r : Trc) (w : HalfWord) {j : Nat} (hj : j < 32) :
    (Trc.writeLow c r w).value.getLsbD j = (writableAt c j && w.getLsbD j) := by
  rw [Trc.writeLow_getLsbD, if_pos hj]

/-- An external write leaves the high half (R54). -/
theorem Trc.writeLow_high (c : Config) (r : Trc) (w : HalfWord) :
    (Trc.writeLow c r w).value.extractLsb' 32 32 = r.value.extractLsb' 32 32 := by
  apply BitVec.eq_of_getLsbD_eq
  intro j _
  simp [Trc.writeLow_getLsbD]

/-- Settles O37: admission and the Idle state decide, and what an admitted write while Idle leaves is known bit by
bit. -/
theorem externalWriteStep : Obligations.ExternalWriteStep := by
  intro s a w rest h hOffset hBits
  rw [step_extWrite_wholeWord h hOffset hBits]
  split_ifs with _ hIdle
  · exact ⟨_, extWriteAdmitted_of_idle w hIdle, Trc.writeLow_high _ _ _, rfl, rfl,
      fun _ hj => Trc.writeLow_getLsbD_low _ _ _ hj, rfl⟩
  · exact extWriteAdmitted_of_not_idle w hIdle
  · rfl

/-- Settles O38: both accesses test the shape first. -/
theorem otherExternalShapesAreRefused : Obligations.OtherExternalShapesAreRefused := by
  intro s a w rest hShape
  have hNotWhole : ¬ a.wholeWord s.cfg = true := mt (wholeWord_iff _ _).1 hShape
  refine ⟨fun h => ?_, fun h => ?_⟩ <;> rw [step_cons h, runEvent]
  · rw [extRead, if_neg hNotWhole]
  · rw [extWrite, if_neg hNotWhole]

/-- A reader after an external write sees its writable bits in the low half, whatever the draws (R43, R54). -/
theorem viewNow_writeLow_getLsbD (r : Trc) (w : HalfWord) (s : State) {j : Nat} (hj : j < 32) :
    (viewNow (Trc.writeLow s.cfg r w) s).getLsbD j = (writableAt s.cfg j && w.getLsbD j) := by
  rw [viewBitByBit _ s j (by omega), if_pos hj, Trc.writeLow_settledLo, if_pos rfl, Trc.writeLow_getLsbD_low _ _ _ hj,
    ← Bool.and_assoc, Bool.and_self]

/-- Settles O39: the read after the external write delivers the view of its contents, and the external read after the
write accessor sees the view of what it stored. -/
theorem bothViewsShareTheLowHalf : Obligations.BothViewsShareTheLowHalf := by
  intro s w t u hIdle hRead hWrite ht
  refine ⟨?_, _, exec_msr_of_idle hWrite hIdle, congrArg _ (viewNow_write _ _)⟩
  obtain ⟨s₂, hExec₂, _, _, _, hValue, _⟩ :=
    exec_mrs_delivers (s := storeTrc (Trc.writeLow s.cfg s.trc w) s) hRead ht
  refine ⟨_, s₂, extWriteAdmitted_of_idle w hIdle, hExec₂, fun j hj => ?_⟩
  rw [hValue]
  exact viewNow_writeLow_getLsbD s.trc w _ hj

end Sys2Proof.Machine
end

section
/-! The trace unit's decision (R32, R33, R66) and the reset step (R151). -/

namespace Sys2Proof.Machine

/-- What the trace unit decides on contents `r` without self-hosted trace: prohibited unless every participating bit is
a field and reads as 1, then what the open function of ITO says (R32, R33). -/
def decisionOn (r : Trc) (ss : SecurityState) (el : EL) (s : State) : Bool :=
  (participants s.cfg ss el).all (fun j => fieldAt s.cfg j && (viewNow r s).getLsbD j)
    && Config.itoGate s.env.trcconfigrITO ss el s.draws

/-- Without self-hosted trace the permission function is the decision on the contents seen (R33). -/
theorem itePermitted_of_not_selfHosted {s : State} (hSelf : s.env.selfHostedTraceEnabled = false) (r : Trc)
    (ss : SecurityState) (el : EL) :
    itePermitted s.cfg s.env (viewNow r s) ss el s.draws = decisionOn r ss el s := by
  rw [itePermitted, hSelf, if_neg Bool.false_ne_true, regPermits_eq_all, decisionOn]
  cases (participants s.cfg ss el).all _ <;> rfl

/-- A step of the trace unit without self-hosted trace records its decision on the contents it sees (R33, R66). -/
theorem step_traceRead_of_not_selfHosted {s : State} {ss : SecurityState} {el : EL} {rest : List Event}
    (hSelf : s.env.selfHostedTraceEnabled = false) (h : s.agenda = .traceRead ss el :: rest) :
    step s = .next (drawn { s with
      agenda := rest, traceDecision := some (decisionOn (traceContents s) ss el s) }) := by
  rw [step_cons h, ← itePermitted_of_not_selfHosted hSelf]
  rfl

/-- Settles O41: a trace unit that is synchronised sees the register. -/
theorem traceDecisionOnASyncedRegister : Obligations.TraceDecisionOnASyncedRegister := by
  intro s ss el rest hSelf hSynced h
  rw [step_traceRead_of_not_selfHosted hSelf h, traceContents_synced s hSynced]
  rfl

/-- Settles O42: what the trace unit sees is the register or among the older contents. -/
theorem traceUnitSeesOldOrNew : Obligations.TraceUnitSeesOldOrNew := by
  intro s ss el rest hSelf h
  exact ⟨_, step_traceRead_of_not_selfHosted hSelf h, rfl, rfl, traceContents s,
    List.mem_cons.1 (traceContents_mem s), rfl⟩

/-- Settles O44: the step takes the event off the agenda and runs it. -/
theorem traceSyncStep : Obligations.TraceSyncStep := by
  intro s rest h
  rw [step_cons h, runEvent, traceSync]

/-- Some bit participates at every place (R32). -/
theorem participants_ne_nil (c : Config) (ss : SecurityState) (el : EL) : participants c ss el ≠ [] := by
  cases el with
  | el0 | el1 | el2 => exact List.cons_ne_nil _ _
  | el3 =>
    rw [participants]
    split <;> exact List.cons_ne_nil _ _

/-- Contents of which a reader sees only zeros prohibit trace at every place (R33). -/
theorem decisionOn_of_view_zero {r : Trc} {s : State} (hView : viewNow r s = 0#64) (ss : SecurityState) (el : EL) :
    decisionOn r ss el s = false := by
  obtain ⟨j, hj⟩ := List.exists_mem_of_ne_nil _ (participants_ne_nil s.cfg ss el)
  have hNotAll : (participants s.cfg ss el).all (fun j => fieldAt s.cfg j && (viewNow r s).getLsbD j) = false :=
    List.all_eq_false.2 ⟨j, hj, by rw [hView, BitVec.getLsbD_zero, Bool.and_false]; exact Bool.false_ne_true⟩
  rw [decisionOn, hNotAll, Bool.false_and]

/-- Settles O43: after the write and `TraceSync` the trace unit sees the register alone, in which every bit reads as
0. -/
theorem writingZeroProhibitsTraceEverywhere : Obligations.WritingZeroProhibitsTraceEverywhere := by
  intro s ss el hPermitted hIdle hSelf
  refine ⟨_, _, _, exec_msr_zeroRegister hPermitted hIdle, traceSyncStep _ _ rfl,
    traceDecisionOnASyncedRegister _ ss el [] hSelf rfl rfl, congrArg some ?_⟩
  refine decisionOn_of_view_zero ?_ ss el
  exact view_of_settled _ _ _ _ BitVec.zero_and rfl rfl

/-- Settles O45: the step takes the event off the agenda and runs it. -/
theorem resetStepUnsettlesTheRegister : Obligations.ResetStepUnsettlesTheRegister := by
  intro s rest h
  rw [step_cons h, runEvent, resetTrc, Trc.reset]

end Sys2Proof.Machine
end
